-- ==== Sys2Proof/Word.lean ====
section
/-! DEFINITION. The word types of the block: 32-bit registers and addresses, 8-bit data (00_scope R11, R18). -/

namespace Sys2Proof

/-- A 32-bit register word or address (R11). -/
abbrev Word := BitVec 32

/-- One byte of data memory, or one character of the serial line. -/
abbrev Byte := BitVec 8

end Sys2Proof
end

