-- ==== Sys2Proof/Config.lean ====
section
/-! DEFINITION. What an implementation fixes (00_scope section 4) and the free values ("draws") of the spec.

A definition with a body is a candidate value of the spec, taken as the default configuration (R12; 93 part 2).
A constant with no body is a value the spec leaves open: nothing in Lean can evaluate it, so a claim that holds
here holds for every value of it. -/

namespace Sys2Proof

/-- `N_CH` (R9): the number of DMA channels. -/
abbrev Config.nCh : Nat := 16

/-- `N_SER` (R10): the number of serial engines. PRESUMED: the candidate 4 (93 G2), unsafe; log 2. -/
abbrev Config.nSer : Nat := 4

/-- `TCR_WIDTH` (R13): the width of the transfer-count field. PRESUMED: the candidate 16 (93 G11), unsafe; log 2. -/
abbrev Config.tcrWidth : Nat := 16

/-- The index of a DMA channel, `0 .. 15` (R9). -/
abbrev ChanIx := Fin Config.nCh

/-- The index of a serial engine, `0 .. N_SER - 1` (R10). -/
abbrev SerIx := Fin Config.nSer

/-- `REF_CLK_HZ` (R14). PRESUMED: the candidate 48 000 000 (93 G12), unsafe; log 2. -/
def Config.refClkHz : Nat := 48000000

/-- `OVER_SEL` (R134): 0 selects 16x oversampling; fixed at 0 by the spec's decision D27. -/
def Config.overSel : Nat := 0

/-- `baud_divisor(ref, baud, over)` (R16). PRESUMED: the candidate formula (93 G13), unsafe; log 2. -/
def Config.baudDivisor (ref baud ov : Nat) : Nat := ref / (8 * (2 - ov) * baud)

/-- One less than `SPI_CD`, so that every value `1 .. 65535` of the open parameter is admitted (R15; log 3). -/
opaque Config.spiCdPred : Fin 65535

/-- `SPI_CD` (R15): the fixed SPI divisor, an open 16-bit parameter that is at least 1. -/
def Config.spiCd : BitVec 16 := BitVec.ofNat 16 (Config.spiCdPred.val + 1)

/-- `SPI_RATE_VALUE` (R17): the fixed return value of the SPI rate accessors, open (log 3). -/
opaque Config.spiRateValue : Word

/-- `SPI_CS_VALUE` (R17): the fixed return value of SPI_GET_CHIP_SELECT, open (log 3). -/
opaque Config.spiCsValue : Byte

/-- The report the fault trap captures (R372). It belongs to the processor; its contents are draws. -/
structure HardFaultReport where
  /-- `r0 .. r12`. -/
  r : Vector Word 13
  sp : Word
  lr : Word
  pc : Word
  /-- The fault-status registers; the spec fixes no number of them. -/
  faultStatus : List Word
deriving DecidableEq, Repr, Inhabited

/-- The drawn 32-bit value of the `n`-th draw of a word: a read of a write-only register (R91; log 4). -/
opaque Config.drawWord : Nat → Word

/-- The drawn bit of the `n`-th draw of a bit: which byte a THR write on a full THR loses (R282; log 4). -/
opaque Config.drawBool : Nat → Bool

/-- The drawn byte of the `n`-th draw of a byte: what an SPI master shifts in when no turn gives the byte (R283; log 30). -/
opaque Config.drawByte : Nat → Byte

/-- The free choice of the `n`-th step that the schedule leaves open, among the steps that are enabled (R243; log 30). -/
opaque Config.drawChoice : Nat → Nat

/-- What a write of a word to an engine's CR leaves in TXEN, where the word both enables and resets the transmitter and
does not disable it; no rule says (R58; log 12). One value for the same write, so that the write is idempotent (R101). -/
opaque Config.txenAfterClash : SerIx → Word → Bool

/-- The same for RXEN and the receiver (R59, R101; log 12). -/
opaque Config.rxenAfterClash : SerIx → Word → Bool

/-- The addresses of the memory from which the processor fetches code, which belongs to the processor: no buffer overlaps
it (R107, R411; log 31). -/
opaque Config.codeMemory : Word → Bool

/-- The addresses of the processor's stack, which no buffer overlaps (R411; log 31). -/
opaque Config.stackMemory : Word → Bool

/-- The drawn report of the `n`-th hard fault (R372; log 4). -/
opaque Config.drawReport : Nat → HardFaultReport

/-- The unspecified reset value of channel `c`'s MAR (R42, R73, R402; log 5). -/
opaque Config.resetMar : ChanIx → Word

/-- The unspecified reset value of channel `c`'s PSR (R43, R73, R402; log 5). -/
opaque Config.resetPsr : ChanIx → Word

/-- The unspecified reset value of engine `s`'s RHR (R59, R76, R402; log 5). -/
opaque Config.resetRhr : SerIx → Byte

end Sys2Proof
end

