-- ==== Sys2Proof/Syntax.lean ====
section
/-! DEFINITION. The operations of the block and the steps of its agents, as syntax: one constructor of `Instr` per row of
spec/opcode_table.json, with its word fields and its side operands (30_encoding R140 to R149). -/

namespace Sys2Proof

/-- A peripheral identity (R121, R122): one direction of one peripheral's DMA request line. The enumeration is the
candidate table's (PRESUMED, 93 G10; log 2); the codes stand in Decode.lean. -/
inductive Pid where
  | usart0Rx | usart1Rx | usart2Rx | usart3Rx | spiRx | twim0Rx | twim1Rx | twim2Rx | twim3Rx | twis0Rx | twis1Rx
  | adcifeRx | catbRx | iiscCh0Rx | iiscCh1Rx | parcRx | aesaRx
  | usart0Tx | usart1Tx | usart2Tx | usart3Tx | spiTx | twim0Tx | twim1Tx | twim2Tx | twim3Tx | twis0Tx | twis1Tx
  | adcifeTx | catbTx | abdacbSdr0Tx | abdacbSdr1Tx | iiscCh0Tx | iiscCh1Tx | daccTx | aesaTx | lcdcaAcmdrTx | lcdcaAbmdrTx
deriving DecidableEq, Repr

/-- The direction of an identity (R123): RX is peripheral to memory, TX is memory to peripheral. -/
inductive Dir where
  | rx | tx
deriving DecidableEq, Repr

/-- The peripheral column of the identity table (R121). -/
inductive PeriphName where
  | usart (n : Fin 4) | spi | twim (n : Fin 4) | twis (n : Fin 2) | adcife | catb | iisc | parc | aesa | abdacb | dacc | lcdca
deriving DecidableEq, Repr

/-- A caller-owned buffer (R60): the bytes `addr .. addr + cap - 1`. Its identity is `id`. -/
structure Buf where
  id : Nat
  addr : Word
  cap : Nat
deriving DecidableEq, Repr

/-- A DMA channel's completion-callback target (R40). -/
inductive DmaClient where
  | serEngine (s : SerIx)
  | ext (k : Nat)
deriving DecidableEq, Repr

/-- A serial engine's client (R52). -/
inductive SerClient where
  | noClient
  | uartClient (k : Nat)
  | spiClient (k : Nat)
deriving DecidableEq, Repr

/-- The data bits of a UART frame (R136). -/
inductive DataBits where
  | five | six | seven | eight
deriving DecidableEq, Repr

/-- The parity of a UART frame (R136). -/
inductive Parity where
  | even | odd | space | mark | none
deriving DecidableEq, Repr

/-- The stop bits of a UART frame (R136). -/
inductive StopBits where
  | one | oneAndHalf | two
deriving DecidableEq, Repr

/-- UART parameters (R136). A value outside these sets cannot be formed; `baud = 0` can. -/
structure UartParams where
  baud : Word
  dataBits : DataBits
  parity : Parity
  stopBits : StopBits
deriving DecidableEq, Repr

/-- An interrupt line (R49). -/
inductive Line where
  | dma (c : ChanIx)
  | ser (s : SerIx)
deriving DecidableEq, Repr

/-- The mnemonics (R140), one per row of the opcode table. -/
inductive Op where
  | regRead | regWrite | regFieldGet | regFieldSet
  | dmaEnable | dmaDisable | dmaProgram | dmaStart | dmaDoTransfer | dmaAbort | dmaHandleIrq | dmaXferCount | dmaSetClient
  | serConfigureUart | serSendByte | serSendBytes | serInitSpi | serReadWriteBytes | serHandleIrq | serDmaDone
  | serSetClient | serAttachDma | serEnableTx | serDisableTx | serEnableRx | serDisableRx
  | spiSetClock | spiGetClock | spiSetPhase | spiGetPhase | spiSetRate | spiGetRate | spiSetChipSelect | spiGetChipSelect
  | irqDispatch | evDmaStep | evSerLoad | evSerShift | evSerRxArrive | evHardFault
deriving DecidableEq, Repr

/-- Why an attempted step has no meaning (R361). A refusal is no behaviour of the hardware: it marks a run that left the
domain the spec defines. The first eight are the spec's; the last is this model's own. -/
inductive RefuseReason where
  /-- A reserved opcode, a nonzero reserved bit, an unmapped PID field, or `hi < lo` (R143, R144, R145). -/
  | reservedEncoding
  /-- A serial index of `N_SER` or more (R143). -/
  | indexOutOfRange
  /-- A buffer operand that is not the host's, or the same buffer passed twice (R103). -/
  | bufferNotHostOwned
  /-- A handler entry or an agent step issued by the host (R149). -/
  | handlerEntryFromHost
  /-- A register access to no modelled register, or a misaligned one (R94). -/
  | unmodelledRegister
  /-- A side operand outside its type, DMA_SET_CLIENT with a serial engine, or a bad SER_ATTACH_DMA (R136, R197, R269). -/
  | paramOutOfRange
  /-- A DMA step with a nonzero channel mode, or a shifter step with an unmodelled serial mode (R200, R280). -/
  | unmodelledMode
  /-- A host operation issued after a fault (R362). -/
  | halted
  /-- The model's own: SER_DMA_DONE or the transfer of SER_SEND_BYTES going on at an engine with no attached channel, a
  state that R269 rules out and for which R267 gives no effect (log 15). -/
  | noBinding
deriving DecidableEq, Repr

/-- An operation of the block or a step of one of its agents, with its word fields (R141) and then its side operands
(R142), in the spec's order. -/
inductive Instr where
  | regRead (addr : Word)
  | regWrite (addr value : Word)
  | regFieldGet (hi lo : Fin 32) (addr : Word)
  | regFieldSet (hi lo : Fin 32) (addr value : Word)
  | dmaEnable (c : ChanIx)
  | dmaDisable (c : ChanIx)
  | dmaProgram (c : ChanIx) (pid : Pid) (buf : Buf) (len : Word)
  | dmaStart (c : ChanIx)
  | dmaDoTransfer (c : ChanIx) (pid : Pid) (buf : Buf) (len : Word)
  | dmaAbort (c : ChanIx)
  | dmaHandleIrq (c : ChanIx)
  | dmaXferCount (c : ChanIx)
  | dmaSetClient (c : ChanIx) (client : Option DmaClient)
  | serConfigureUart (e : SerIx) (params : UartParams)
  | serSendByte (e : SerIx) (b : Byte)
  | serSendBytes (e : SerIx) (buf : Buf) (len : Word)
  | serInitSpi (e : SerIx)
  | serReadWriteBytes (e : SerIx) (w : Buf) (r : Option Buf) (len : Word)
  | serHandleIrq (e : SerIx)
  | serDmaDone (e : SerIx) (pid : Pid)
  | serSetClient (e : SerIx) (client : SerClient)
  | serAttachDma (e : SerIx) (pid : Pid) (c : ChanIx)
  | serEnableTx (e : SerIx)
  | serDisableTx (e : SerIx)
  | serEnableRx (e : SerIx)
  | serDisableRx (e : SerIx)
  | spiSetClock (e : SerIx) (v : Bool)
  | spiGetClock (e : SerIx)
  | spiSetPhase (e : SerIx) (v : Bool)
  | spiGetPhase (e : SerIx)
  | spiSetRate (e : SerIx) (rate : Word)
  | spiGetRate (e : SerIx)
  | spiSetChipSelect (e : SerIx) (cs : Byte)
  | spiGetChipSelect (e : SerIx)
  | irqDispatch (l : Line)
  | evDmaStep (c : ChanIx) (x0 : Byte)
  | evSerLoad (e : SerIx)
  | evSerShift (e : SerIx) (m : Byte)
  | evSerRxArrive (e : SerIx) (x : Byte)
  | evHardFault
deriving DecidableEq, Repr

/-- The mnemonic of an instruction. -/
def Instr.op : Instr → Op
  | .regRead _ => .regRead
  | .regWrite _ _ => .regWrite
  | .regFieldGet _ _ _ => .regFieldGet
  | .regFieldSet _ _ _ _ => .regFieldSet
  | .dmaEnable _ => .dmaEnable
  | .dmaDisable _ => .dmaDisable
  | .dmaProgram _ _ _ _ => .dmaProgram
  | .dmaStart _ => .dmaStart
  | .dmaDoTransfer _ _ _ _ => .dmaDoTransfer
  | .dmaAbort _ => .dmaAbort
  | .dmaHandleIrq _ => .dmaHandleIrq
  | .dmaXferCount _ => .dmaXferCount
  | .dmaSetClient _ _ => .dmaSetClient
  | .serConfigureUart _ _ => .serConfigureUart
  | .serSendByte _ _ => .serSendByte
  | .serSendBytes _ _ _ => .serSendBytes
  | .serInitSpi _ => .serInitSpi
  | .serReadWriteBytes _ _ _ _ => .serReadWriteBytes
  | .serHandleIrq _ => .serHandleIrq
  | .serDmaDone _ _ => .serDmaDone
  | .serSetClient _ _ => .serSetClient
  | .serAttachDma _ _ _ => .serAttachDma
  | .serEnableTx _ => .serEnableTx
  | .serDisableTx _ => .serDisableTx
  | .serEnableRx _ => .serEnableRx
  | .serDisableRx _ => .serDisableRx
  | .spiSetClock _ _ => .spiSetClock
  | .spiGetClock _ => .spiGetClock
  | .spiSetPhase _ _ => .spiSetPhase
  | .spiGetPhase _ => .spiGetPhase
  | .spiSetRate _ _ => .spiSetRate
  | .spiGetRate _ => .spiGetRate
  | .spiSetChipSelect _ _ => .spiSetChipSelect
  | .spiGetChipSelect _ => .spiGetChipSelect
  | .irqDispatch _ => .irqDispatch
  | .evDmaStep _ _ => .evDmaStep
  | .evSerLoad _ => .evSerLoad
  | .evSerShift _ _ => .evSerShift
  | .evSerRxArrive _ _ => .evSerRxArrive
  | .evHardFault => .evHardFault

end Sys2Proof
end

