-- ==== Sys2Proof/Machine/State.lean ====
section
/-! DEFINITION. The state of the machine (10_state R30 to R77), the reasons a step can stop, and the state at reset.

The parts of `State` down to `events` are the spec's, in R30's order. The part `sched` is the model's own: the choices that
the spec leaves to the host, to the environment and to the scheduler, as plain data that a step reads (log 1). -/

namespace Sys2Proof.Machine

/-- Who may touch a buffer now (R61). -/
inductive Owner where
  | host
  | chan (c : ChanIx)
  | ser (e : SerIx)
deriving DecidableEq, Repr

/-- A recorded fault with its info (R33, R350). The code number is `FaultRec.code`. -/
inductive FaultRec where
  | unmappedSelector (c : ChanIx) (sel : Word)
  | bufferOverwrite (c : ChanIx) (held new : Nat)
  | transferOutstanding (e : SerIx)
  | wrongMode (e : SerIx) (op : Op)
  | spiLengthInvalid (e : SerIx) (len : Word)
  | clockGatedAccess (addr : Word)
  | noClient (e : SerIx) (id : Nat)
  | clientShapeMismatch (e : SerIx)
  | reconfigureWhileBusy (e : SerIx)
  | noDmaChannel (e : SerIx)
  | baudInvalid (e : SerIx) (baud : Word)
  | lengthTooLarge (c : ChanIx) (n : Nat)
  | dmaOutOfBuffer (who : Owner) (a : Word)
  | hardFault (report : HardFaultReport)
deriving DecidableEq, Repr

/-- The value an operation returns (R67). A number is its bits zero-extended to a word (log 14). -/
inductive RetVal where
  | unit
  | word (v : Word)
  | buf (b : Option Buf)
deriving DecidableEq, Repr

/-- An event delivered to the host (R67). -/
inductive Event where
  /-- The completion callback of an `Ext` client. -/
  | dmaDone (c : ChanIx) (pid : Pid)
  /-- The UART client's write-done callback, which returns the buffer. -/
  | uartWriteDone (e : SerIx) (b : Buf)
  /-- The UART client's byte-received callback. -/
  | uartByte (e : SerIx) (x : Byte)
  /-- The SPI client's read-write-done callback, which returns both buffers. -/
  | spiDone (e : SerIx) (w : Buf) (r : Option Buf) (len : Nat)
  /-- The return value of a host operation. -/
  | ret (op : Op) (v : RetVal)
  /-- A byte leaves the engine on the serial line. -/
  | txLine (e : SerIx) (x : Byte)
  /-- The chip-select pin changes to `level`. -/
  | csPin (e : SerIx) (level : Bool)
  /-- The DMA engine delivers a byte to an external peripheral. -/
  | periphTx (pid : Pid) (x : Byte)
  /-- A fault is reported. -/
  | faultReport (f : FaultRec)
deriving DecidableEq, Repr

/-- The CPU agent's position (R31): the operation in progress and the index of its next primitive step. `tmp` is the value
that an access left for the next step of the same operation (the pseudocode's `t`, `x`, `b`; log 16). -/
structure Cur where
  op : Instr
  k : Nat
  tmp : Word
deriving DecidableEq, Repr

/-- A DMA channel (R39 to R48). Its base and its line are static (R38); ISR is derived (R47). -/
structure Chan where
  /-- The software enabled flag (R39). -/
  enabled : Bool
  /-- The completion-callback target (R40). -/
  client : Option DmaClient
  /-- The single buffer slot (R41). -/
  slot : Option Buf
  /-- The memory address register (R42). -/
  mar : Word
  /-- The transfer-request selector (R43). -/
  psr : Word
  /-- The remaining transfer count, in bytes (R44). -/
  tcr : BitVec Config.tcrWidth
  /-- The transfer-enable state (R45). -/
  ten : Bool
  /-- The interrupt mask: bit 0 RCZ, bit 1 TRC, bit 2 TERR (R46). -/
  imr : BitVec 3
  /-- The channel mode register (R48). -/
  mr : Word
deriving DecidableEq, Repr

/-- The mode tag of a serial engine (R51). -/
inductive Mode where
  | unused | uart | spi
deriving DecidableEq, Repr

/-- The in-flight SPI transfer context (R54). -/
structure SpiCtx where
  w : Buf
  r : Option Buf
  len : Nat
  cursor : Nat
deriving DecidableEq, Repr

/-- A serial engine (R51 to R59). Its base, clock and line are static (R50); CSR is derived (R58, R59). -/
structure Ser where
  /-- The mode tag (R51). -/
  mode : Mode
  /-- The registered client (R52). -/
  client : SerClient
  /-- The attached DMA channel and its identity (R53). -/
  dma : Option (ChanIx × Pid)
  /-- The in-flight SPI transfer (R54). -/
  ctx : Option SpiCtx
  /-- The peripheral clock (R55). -/
  clkOn : Bool
  /-- The mode register (R56). -/
  mr : Word
  /-- The baud generator (R56). -/
  brgr : Word
  /-- The transmit timeguard (R56). -/
  ttgr : Word
  /-- The interrupt mask (R57). -/
  imr : Word
  /-- The chip-select state; the pin is low when it is true (R57). -/
  csAsserted : Bool
  /-- The transmitter enable (R58). -/
  txen : Bool
  /-- The transmit holding byte (R58). -/
  thr : Byte
  /-- Whether the transmit holding byte is pending (R58). -/
  thrFull : Bool
  /-- The byte being shifted out (R58). -/
  shift : Option Byte
  /-- The receiver enable (R59). -/
  rxen : Bool
  /-- The receive holding byte (R59). -/
  rhr : Byte
  /-- A received byte is waiting (R59). -/
  rxrdy : Bool
  /-- A received byte was overwritten (R59). -/
  ovre : Bool
deriving DecidableEq, Repr

/-- Data memory (R62): the bytes that differ from what an unlisted address reads as, addresses strictly rising. -/
abbrev Mem := List Host.Cell

/-- A buffer that the host has handed to the block, and its owner (R60, R61). -/
structure BufEntry where
  buf : Buf
  owner : Owner
deriving DecidableEq, Repr

/-- The buffer table and owner map (R60, R61): the buffers the block owns now, ids strictly rising. A buffer that is not
listed is the host's (log 8). -/
abbrev BufTable := List BufEntry

/-- One turn of the schedule (log 1): who moves next, with the words of its operation or step. -/
inductive Turn where
  /-- The host issues an operation; the CPU agent may make `burst` accesses of it in this turn (`none`: all of them). -/
  | host (words : List Word) (burst : Option Nat)
  /-- An agent other than the host takes a step. `extReq` is the environment's draw of whether an external peripheral
  requests a transfer at this step (R202; log 17). -/
  | agent (words : List Word) (extReq : Bool)
  /-- The CPU agent goes on with the operation in progress, for `burst` accesses (`none`: all of them). -/
  | cpu (burst : Option Nat)
deriving DecidableEq, Repr

/-- The model's own part of the state: the inputs the spec leaves free, and the places of its draws (log 1). -/
structure Sched where
  /-- Whether the front-end's boot step has happened (R412; log 18). -/
  booted : Bool
  /-- The turns to come. -/
  input : List Turn
  /-- How many accesses the CPU agent may make in its present turn (log 16). -/
  burst : Option Nat
  /-- Whether an external peripheral requests a transfer at this step (log 17). -/
  extReq : Bool
  /-- The number of draws made so far (log 4). -/
  draws : Nat
  /-- Why the run was refused: a record beside R34's mark (log 10). -/
  why : Option RefuseReason
deriving DecidableEq, Repr

/-- The machine state (R30). -/
structure State where
  /-- The CPU agent: the operation in progress (R31). -/
  cur : Option Cur
  /-- The fault record (R33). -/
  fault : Option FaultRec
  /-- The refusal mark (R34). -/
  refused : Bool
  /-- The shared clock-enable counter (R35). -/
  dmaCount : Nat
  /-- The shared clock gate of the DMA engine (R36). -/
  dmaGate : Bool
  /-- The channels (R38 to R48). -/
  ch : Vector Chan Config.nCh
  /-- `line[DmaLine(c)].masked` (R49). -/
  dmaMasked : Vector Bool Config.nCh
  /-- `line[SerLine(s)].masked` (R49). -/
  serMasked : Vector Bool Config.nSer
  /-- The serial engines (R50 to R59). -/
  ser : Vector Ser Config.nSer
  /-- The buffer table and owner map (R60, R61). -/
  bufs : BufTable
  /-- Data memory (R62). -/
  mem : Mem
  /-- The event history, oldest first (R63). -/
  events : List Event
  /-- The model's own part (log 1). -/
  sched : Sched
deriving DecidableEq, Repr

/-- The reasons a step stops because the machine does (a fault of the SPEC is a next state with its record, log 9). -/
inductive Fault where
  /-- Raised by a step of any agent but the host after a fault is recorded: "no step of any agent is enabled: the system
  is halted" (R351, R362). Safe. -/
  | halted
deriving DecidableEq, Repr

/-- The reasons a step has no meaning (a refusal of the SPEC is a next state with its mark, log 10). -/
inductive Refusal where
  /-- Raised by an arm of `exec` whose instruction has no meaning yet; no arm is left so. Safe. -/
  | notModelled (mnemonic : String)
  /-- Raised by every step after a refusal: "no step of any agent is enabled, and the run ends" (R360). Safe. -/
  | runEnded
  /-- Raised by `step` when the schedule holds no further turn and no agent's step is enabled: the run's end by quiescence
  (R441). Safe. -/
  | quiescent
deriving DecidableEq, Repr

/-- A channel at reset (R72, R73); MAR and PSR are draws (R402, log 5). -/
def Chan.reset (c : ChanIx) : Chan where
  enabled := false
  client := none
  slot := none
  mar := Config.resetMar c
  psr := Config.resetPsr c
  tcr := 0
  ten := false
  imr := 0
  mr := 0

/-- A serial engine at reset (R75, R76); RHR is a draw (R402, log 5), and THR's byte, which no rule states, is 0 (DESIGN
CHOICE, log 6). -/
def Ser.reset (e : SerIx) : Ser where
  mode := .unused
  client := .noClient
  dma := none
  ctx := none
  clkOn := false
  mr := 0
  brgr := 0
  ttgr := 0
  imr := 0
  csAsserted := false
  txen := false
  thr := 0
  thrFull := false
  shift := none
  rxen := false
  rhr := Config.resetRhr e
  rxrdy := false
  ovre := false

/-- The model's own part at reset: the boot step is still to come, and nothing is scheduled (log 1, log 18). -/
def Sched.reset : Sched where
  booted := false
  input := []
  burst := none
  extReq := false
  draws := 0
  why := none

/-- The machine right after power-on reset (R70 to R77, R400): every line masked, every buffer the host's, no event. -/
def State.reset : State where
  cur := none
  fault := none
  refused := false
  dmaCount := 0
  dmaGate := false
  ch := Vector.ofFn Chan.reset
  dmaMasked := Vector.replicate Config.nCh true
  serMasked := Vector.replicate Config.nSer true
  ser := Vector.ofFn Ser.reset
  bufs := []
  mem := []
  events := []
  sched := Sched.reset

end Sys2Proof.Machine
end

