-- ==== Sys2Proof/Machine/Layout.lean ====
section
/-! DEFINITION. The register space (20_memory R90, R94, R109): which register an address names, and the interrupt numbers.
Every number here is the spec's candidate (PRESUMED, 93 G5 to G9, unsafe; log 2). -/

namespace Sys2Proof.Machine

/-- The modelled registers of a channel block (10_state, table before R42). MARR and TCRR are not modelled (D6). -/
inductive ChanReg where
  | mar | psr | tcr | cr | mr | sr | ier | idr | imr | isr
deriving DecidableEq, Repr

/-- The registers of a serial engine block (10_state, table before R56). -/
inductive SerReg where
  | cr | mr | ier | idr | imr | csr | rhr | thr | brgr | ttgr
deriving DecidableEq, Repr

/-- A modelled register of the block. -/
inductive RegRef where
  | chan (c : ChanIx) (r : ChanReg)
  | ser (e : SerIx) (r : SerReg)
deriving DecidableEq, Repr

/-- The offset of a channel register from its channel's base. -/
def chanOffset : ChanReg → Nat
  | .mar => 0x00
  | .psr => 0x04
  | .tcr => 0x08
  | .cr => 0x14
  | .mr => 0x18
  | .sr => 0x1C
  | .ier => 0x20
  | .idr => 0x24
  | .imr => 0x28
  | .isr => 0x2C

/-- The offset of a serial register from its engine's base. -/
def serOffset : SerReg → Nat
  | .cr => 0x00
  | .mr => 0x04
  | .ier => 0x08
  | .idr => 0x0C
  | .imr => 0x10
  | .csr => 0x14
  | .rhr => 0x18
  | .thr => 0x1C
  | .brgr => 0x20
  | .ttgr => 0x28

/-- The channel register at an offset, if one is modelled there. -/
def chanRegAt? (off : Nat) : Option ChanReg :=
  [.mar, .psr, .tcr, .cr, .mr, .sr, .ier, .idr, .imr, .isr].find? (fun r => chanOffset r == off)

/-- The serial register at an offset, if there is one. -/
def serRegAt? (off : Nat) : Option SerReg :=
  [.cr, .mr, .ier, .idr, .imr, .csr, .rhr, .thr, .brgr, .ttgr].find? (fun r => serOffset r == off)

/-- `DMA_BASE` (R38). -/
def dmaBase : Nat := 0x400A2000

/-- `DMA_STRIDE` (R38, R109). -/
def dmaStride : Nat := 0x40

/-- `SER_BASE(0)` (R50). -/
def serBase0 : Nat := 0x40024000

/-- The distance between the bases of two neighbouring engines (R50). -/
def serStride : Nat := 0x4000

/-- `ch[c].base = DMA_BASE + c * DMA_STRIDE` (R38). -/
def chanBase (c : ChanIx) : Nat := dmaBase + c.val * dmaStride

/-- `ser[s].base = SER_BASE(s)` (R50). -/
def serBase (e : SerIx) : Nat := serBase0 + serStride * e.val

/-- The address of a channel's register. -/
def chanAddr (c : ChanIx) (r : ChanReg) : Word := BitVec.ofNat 32 (chanBase c + chanOffset r)

/-- The address of an engine's register. -/
def serAddr (e : SerIx) (r : SerReg) : Word := BitVec.ofNat 32 (serBase e + serOffset r)

/-- Whether an address lies in the channel blocks, each `DMA_STRIDE` long (R90). -/
abbrev inChanBlocks (a : Nat) : Prop := dmaBase ≤ a ∧ a < dmaBase + Config.nCh * dmaStride

/-- Whether an address lies in the serial engines' blocks. R90 gives a block no end: here it reaches to the next base
(log 31). -/
abbrev inSerBlocks (a : Nat) : Prop := serBase0 ≤ a ∧ a < serBase0 + Config.nSer * serStride

/-- The register at an address; none for an unmodelled offset, an address in no block, or a misaligned one (R94: every
modelled offset is a multiple of 4). -/
def regAt (a : Word) : Option RegRef :=
  if inChanBlocks a.toNat then
    (chanRegAt? ((a.toNat - dmaBase) % dmaStride)).map (.chan (Fin.ofNat Config.nCh ((a.toNat - dmaBase) / dmaStride)))
  else if inSerBlocks a.toNat then
    (serRegAt? ((a.toNat - serBase0) % serStride)).map (.ser (Fin.ofNat Config.nSer ((a.toNat - serBase0) / serStride)))
  else none

/-- The interrupt number of a line: `DMA_IRQ(c)` and `SER_IRQ(s)` (R38, R50, R247). -/
def lineIrq : Line → Nat
  | .dma c => 1 + c.val
  | .ser e => 65 + e.val

/-- `handler(l)` (R241). -/
def lineHandler : Line → Instr
  | .dma c => .dmaHandleIrq c
  | .ser e => .serHandleIrq e

/-- The entry point to which the front-end routes an interrupt number (R241): that of the line with the number. -/
def routeIrq (n : Nat) : Option Instr :=
  (((List.finRange Config.nCh).map Line.dma ++ (List.finRange Config.nSer).map Line.ser).find?
    (fun l => lineIrq l == n)).map lineHandler

end Sys2Proof.Machine
end

