-- ==== Sys2Proof/WellFormed.lean ====
section
/-! DEFINITION. When an instruction is well formed: the checks that its types do not already make (R60, R142, R143). -/

namespace Sys2Proof

/-- A buffer operand fits the address space (R60), and its identity fits the one word the side operand gives it
(the model's layout, log 13). -/
def Buf.wf (b : Buf) : Bool := decide (b.addr.toNat + b.cap ≤ 2 ^ 32) && decide (b.id < 2 ^ 32)

/-- A host-chosen client identity fits its side-operand word (the model's layout, log 13). -/
def DmaClient.wf : DmaClient → Bool
  | .serEngine _ => true
  | .ext k => decide (k < 2 ^ 32)

/-- A host-chosen client identity fits its side-operand word (the model's layout, log 13). -/
def SerClient.wf : SerClient → Bool
  | .noClient => true
  | .uartClient k => decide (k < 2 ^ 32)
  | .spiClient k => decide (k < 2 ^ 32)

/-- The checks on an instruction: `hi >= lo` for the bit-field operations (R143), and the side operands in their types. -/
def Instr.wf : Instr → Bool
  | .regRead _ => true
  | .regWrite _ _ => true
  | .regFieldGet hi lo _ => decide (lo ≤ hi)
  | .regFieldSet hi lo _ _ => decide (lo ≤ hi)
  | .dmaEnable _ => true
  | .dmaDisable _ => true
  | .dmaProgram _ _ buf _ => buf.wf
  | .dmaStart _ => true
  | .dmaDoTransfer _ _ buf _ => buf.wf
  | .dmaAbort _ => true
  | .dmaHandleIrq _ => true
  | .dmaXferCount _ => true
  | .dmaSetClient _ client => client.all DmaClient.wf
  | .serConfigureUart _ _ => true
  | .serSendByte _ _ => true
  | .serSendBytes _ buf _ => buf.wf
  | .serInitSpi _ => true
  | .serReadWriteBytes _ w r _ => w.wf && r.all Buf.wf
  | .serHandleIrq _ => true
  | .serDmaDone _ _ => true
  | .serSetClient _ client => client.wf
  | .serAttachDma _ _ _ => true
  | .serEnableTx _ => true
  | .serDisableTx _ => true
  | .serEnableRx _ => true
  | .serDisableRx _ => true
  | .spiSetClock _ _ => true
  | .spiGetClock _ => true
  | .spiSetPhase _ _ => true
  | .spiGetPhase _ => true
  | .spiSetRate _ _ => true
  | .spiGetRate _ => true
  | .spiSetChipSelect _ _ => true
  | .spiGetChipSelect _ => true
  | .irqDispatch _ => true
  | .evDmaStep _ _ => true
  | .evSerLoad _ => true
  | .evSerShift _ _ => true
  | .evSerRxArrive _ _ => true
  | .evHardFault => true

/-- An instruction every one of whose operands is in its type. -/
abbrev WellFormed (i : Instr) : Prop := i.wf = true

end Sys2Proof
end

