-- ==== Sys2Proof/Decode.lean ====
section
/-! DEFINITION. The encodings (30_encoding): the identity codes, the operation words of spec/opcode_table.json, the decoder,
total on any list of words and rejecting by the spec's refusal reasons, and the encoder.

An operation word is 32 bits; its side operands follow it as whole words. Which words they are is the model's own layout
(DESIGN CHOICE, log 13), since R142 fixes only their types and their order. -/

namespace Sys2Proof

/-- `PID_CODE` (R121): code 24 for TWIM1_TX is the source's; every other row is the candidate table's (log 2). -/
def Pid.code : Pid → Nat
  | .usart0Rx => 0
  | .usart1Rx => 1
  | .usart2Rx => 2
  | .usart3Rx => 3
  | .spiRx => 4
  | .twim0Rx => 5
  | .twim1Rx => 6
  | .twim2Rx => 7
  | .twim3Rx => 8
  | .twis0Rx => 9
  | .twis1Rx => 10
  | .adcifeRx => 11
  | .catbRx => 12
  | .iiscCh0Rx => 14
  | .iiscCh1Rx => 15
  | .parcRx => 16
  | .aesaRx => 17
  | .usart0Tx => 18
  | .usart1Tx => 19
  | .usart2Tx => 20
  | .usart3Tx => 21
  | .spiTx => 22
  | .twim0Tx => 23
  | .twim1Tx => 24
  | .twim2Tx => 25
  | .twim3Tx => 26
  | .twis0Tx => 27
  | .twis1Tx => 28
  | .adcifeTx => 29
  | .catbTx => 30
  | .abdacbSdr0Tx => 31
  | .abdacbSdr1Tx => 32
  | .iiscCh0Tx => 33
  | .iiscCh1Tx => 34
  | .daccTx => 35
  | .aesaTx => 36
  | .lcdcaAcmdrTx => 37
  | .lcdcaAbmdrTx => 38

/-- The identities, in the order of their codes (R121). -/
def Pid.all : List Pid :=
  [.usart0Rx, .usart1Rx, .usart2Rx, .usart3Rx, .spiRx, .twim0Rx, .twim1Rx, .twim2Rx, .twim3Rx, .twis0Rx,
   .twis1Rx, .adcifeRx, .catbRx, .iiscCh0Rx, .iiscCh1Rx, .parcRx, .aesaRx, .usart0Tx, .usart1Tx, .usart2Tx,
   .usart3Tx, .spiTx, .twim0Tx, .twim1Tx, .twim2Tx, .twim3Tx, .twis0Tx, .twis1Tx, .adcifeTx, .catbTx,
   .abdacbSdr0Tx, .abdacbSdr1Tx, .iiscCh0Tx, .iiscCh1Tx, .daccTx, .aesaTx, .lcdcaAcmdrTx, .lcdcaAbmdrTx]

/-- The identity with a given code, if there is one (R124, R143). -/
def Pid.ofCode? (n : Nat) : Option Pid := Pid.all.find? (fun p => p.code == n)

/-- The direction column of the identity table (R121, R233). -/
def Pid.dir : Pid → Dir
  | .usart0Rx | .usart1Rx | .usart2Rx | .usart3Rx | .spiRx | .twim0Rx | .twim1Rx | .twim2Rx | .twim3Rx |
  .twis0Rx | .twis1Rx | .adcifeRx | .catbRx | .iiscCh0Rx | .iiscCh1Rx | .parcRx | .aesaRx => .rx
  | .usart0Tx | .usart1Tx | .usart2Tx | .usart3Tx | .spiTx | .twim0Tx | .twim1Tx | .twim2Tx | .twim3Tx |
  .twis0Tx | .twis1Tx | .adcifeTx | .catbTx | .abdacbSdr0Tx | .abdacbSdr1Tx | .iiscCh0Tx | .iiscCh1Tx | .daccTx
  | .aesaTx | .lcdcaAcmdrTx | .lcdcaAbmdrTx => .tx

/-- The peripheral column of the identity table (R121, R233). -/
def Pid.periphName : Pid → PeriphName
  | .usart0Rx => .usart 0
  | .usart1Rx => .usart 1
  | .usart2Rx => .usart 2
  | .usart3Rx => .usart 3
  | .spiRx => .spi
  | .twim0Rx => .twim 0
  | .twim1Rx => .twim 1
  | .twim2Rx => .twim 2
  | .twim3Rx => .twim 3
  | .twis0Rx => .twis 0
  | .twis1Rx => .twis 1
  | .adcifeRx => .adcife
  | .catbRx => .catb
  | .iiscCh0Rx => .iisc
  | .iiscCh1Rx => .iisc
  | .parcRx => .parc
  | .aesaRx => .aesa
  | .usart0Tx => .usart 0
  | .usart1Tx => .usart 1
  | .usart2Tx => .usart 2
  | .usart3Tx => .usart 3
  | .spiTx => .spi
  | .twim0Tx => .twim 0
  | .twim1Tx => .twim 1
  | .twim2Tx => .twim 2
  | .twim3Tx => .twim 3
  | .twis0Tx => .twis 0
  | .twis1Tx => .twis 1
  | .adcifeTx => .adcife
  | .catbTx => .catb
  | .abdacbSdr0Tx => .abdacb
  | .abdacbSdr1Tx => .abdacb
  | .iiscCh0Tx => .iisc
  | .iiscCh1Tx => .iisc
  | .daccTx => .dacc
  | .aesaTx => .aesa
  | .lcdcaAcmdrTx => .lcdca
  | .lcdcaAbmdrTx => .lcdca

/-- The name of an identity as the table spells it (R121). -/
def Pid.text : Pid → String
  | .usart0Rx => "USART0_RX"
  | .usart1Rx => "USART1_RX"
  | .usart2Rx => "USART2_RX"
  | .usart3Rx => "USART3_RX"
  | .spiRx => "SPI_RX"
  | .twim0Rx => "TWIM0_RX"
  | .twim1Rx => "TWIM1_RX"
  | .twim2Rx => "TWIM2_RX"
  | .twim3Rx => "TWIM3_RX"
  | .twis0Rx => "TWIS0_RX"
  | .twis1Rx => "TWIS1_RX"
  | .adcifeRx => "ADCIFE_RX"
  | .catbRx => "CATB_RX"
  | .iiscCh0Rx => "IISC_CH0_RX"
  | .iiscCh1Rx => "IISC_CH1_RX"
  | .parcRx => "PARC_RX"
  | .aesaRx => "AESA_RX"
  | .usart0Tx => "USART0_TX"
  | .usart1Tx => "USART1_TX"
  | .usart2Tx => "USART2_TX"
  | .usart3Tx => "USART3_TX"
  | .spiTx => "SPI_TX"
  | .twim0Tx => "TWIM0_TX"
  | .twim1Tx => "TWIM1_TX"
  | .twim2Tx => "TWIM2_TX"
  | .twim3Tx => "TWIM3_TX"
  | .twis0Tx => "TWIS0_TX"
  | .twis1Tx => "TWIS1_TX"
  | .adcifeTx => "ADCIFE_TX"
  | .catbTx => "CATB_TX"
  | .abdacbSdr0Tx => "ABDACB_SDR0_TX"
  | .abdacbSdr1Tx => "ABDACB_SDR1_TX"
  | .iiscCh0Tx => "IISC_CH0_TX"
  | .iiscCh1Tx => "IISC_CH1_TX"
  | .daccTx => "DACC_TX"
  | .aesaTx => "AESA_TX"
  | .lcdcaAcmdrTx => "LCDCA_ACMDR_TX"
  | .lcdcaAbmdrTx => "LCDCA_ABMDR_TX"

/-- The mnemonics in the order of the opcode table. -/
def Op.all : List Op :=
  [.regRead, .regWrite, .regFieldGet, .regFieldSet, .dmaEnable, .dmaDisable, .dmaProgram, .dmaStart,
   .dmaDoTransfer, .dmaAbort, .dmaHandleIrq, .dmaXferCount, .dmaSetClient, .serConfigureUart, .serSendByte,
   .serSendBytes, .serInitSpi, .serReadWriteBytes, .serHandleIrq, .serDmaDone, .serSetClient, .serAttachDma,
   .serEnableTx, .serDisableTx, .serEnableRx, .serDisableRx, .spiSetClock, .spiGetClock, .spiSetPhase,
   .spiGetPhase, .spiSetRate, .spiGetRate, .spiSetChipSelect, .spiGetChipSelect, .irqDispatch, .evDmaStep,
   .evSerLoad, .evSerShift, .evSerRxArrive, .evHardFault]

/-- The 6-bit opcode of a mnemonic (R140). -/
def Op.code : Op → BitVec 6
  | .regRead => 0x01#6
  | .regWrite => 0x02#6
  | .regFieldGet => 0x03#6
  | .regFieldSet => 0x04#6
  | .dmaEnable => 0x08#6
  | .dmaDisable => 0x09#6
  | .dmaProgram => 0x0A#6
  | .dmaStart => 0x0B#6
  | .dmaDoTransfer => 0x0C#6
  | .dmaAbort => 0x0D#6
  | .dmaHandleIrq => 0x0E#6
  | .dmaXferCount => 0x0F#6
  | .dmaSetClient => 0x10#6
  | .serConfigureUart => 0x18#6
  | .serSendByte => 0x19#6
  | .serSendBytes => 0x1A#6
  | .serInitSpi => 0x1B#6
  | .serReadWriteBytes => 0x1C#6
  | .serHandleIrq => 0x1D#6
  | .serDmaDone => 0x1E#6
  | .serSetClient => 0x1F#6
  | .serAttachDma => 0x20#6
  | .serEnableTx => 0x21#6
  | .serDisableTx => 0x22#6
  | .serEnableRx => 0x23#6
  | .serDisableRx => 0x24#6
  | .spiSetClock => 0x28#6
  | .spiGetClock => 0x29#6
  | .spiSetPhase => 0x2A#6
  | .spiGetPhase => 0x2B#6
  | .spiSetRate => 0x2C#6
  | .spiGetRate => 0x2D#6
  | .spiSetChipSelect => 0x2E#6
  | .spiGetChipSelect => 0x2F#6
  | .irqDispatch => 0x30#6
  | .evDmaStep => 0x31#6
  | .evSerLoad => 0x32#6
  | .evSerShift => 0x33#6
  | .evSerRxArrive => 0x34#6
  | .evHardFault => 0x3F#6

/-- The `match` column of the opcode table. -/
def Op.matchWord : Op → Word
  | .regRead => 0x04000000#32
  | .regWrite => 0x08000000#32
  | .regFieldGet => 0x0C000000#32
  | .regFieldSet => 0x10000000#32
  | .dmaEnable => 0x20000000#32
  | .dmaDisable => 0x24000000#32
  | .dmaProgram => 0x28000000#32
  | .dmaStart => 0x2C000000#32
  | .dmaDoTransfer => 0x30000000#32
  | .dmaAbort => 0x34000000#32
  | .dmaHandleIrq => 0x38000000#32
  | .dmaXferCount => 0x3C000000#32
  | .dmaSetClient => 0x40000000#32
  | .serConfigureUart => 0x60000000#32
  | .serSendByte => 0x64000000#32
  | .serSendBytes => 0x68000000#32
  | .serInitSpi => 0x6C000000#32
  | .serReadWriteBytes => 0x70000000#32
  | .serHandleIrq => 0x74000000#32
  | .serDmaDone => 0x78000000#32
  | .serSetClient => 0x7C000000#32
  | .serAttachDma => 0x80000000#32
  | .serEnableTx => 0x84000000#32
  | .serDisableTx => 0x88000000#32
  | .serEnableRx => 0x8C000000#32
  | .serDisableRx => 0x90000000#32
  | .spiSetClock => 0xA0000000#32
  | .spiGetClock => 0xA4000000#32
  | .spiSetPhase => 0xA8000000#32
  | .spiGetPhase => 0xAC000000#32
  | .spiSetRate => 0xB0000000#32
  | .spiGetRate => 0xB4000000#32
  | .spiSetChipSelect => 0xB8000000#32
  | .spiGetChipSelect => 0xBC000000#32
  | .irqDispatch => 0xC0000000#32
  | .evDmaStep => 0xC4000000#32
  | .evSerLoad => 0xC8000000#32
  | .evSerShift => 0xCC000000#32
  | .evSerRxArrive => 0xD0000000#32
  | .evHardFault => 0xFC000000#32

/-- The `mask` column of the opcode table: the bits that are no field of the opcode. -/
def Op.maskWord : Op → Word
  | .regRead => 0xFFFFFFFF#32
  | .regWrite => 0xFFFFFFFF#32
  | .regFieldGet => 0xFFFFE0E0#32
  | .regFieldSet => 0xFFFFE0E0#32
  | .dmaEnable => 0xFC3FFFFF#32
  | .dmaDisable => 0xFC3FFFFF#32
  | .dmaProgram => 0xFC00FFFF#32
  | .dmaStart => 0xFC3FFFFF#32
  | .dmaDoTransfer => 0xFC00FFFF#32
  | .dmaAbort => 0xFC3FFFFF#32
  | .dmaHandleIrq => 0xFC3FFFFF#32
  | .dmaXferCount => 0xFC3FFFFF#32
  | .dmaSetClient => 0xFC3FFFFF#32
  | .serConfigureUart => 0xFC3FFFFF#32
  | .serSendByte => 0xFC3FFF00#32
  | .serSendBytes => 0xFC3FFFFF#32
  | .serInitSpi => 0xFC3FFFFF#32
  | .serReadWriteBytes => 0xFC3FFFFF#32
  | .serHandleIrq => 0xFC3FFFFF#32
  | .serDmaDone => 0xFC00FFFF#32
  | .serSetClient => 0xFC3FFFFF#32
  | .serAttachDma => 0xFC00FFF0#32
  | .serEnableTx => 0xFC3FFFFF#32
  | .serDisableTx => 0xFC3FFFFF#32
  | .serEnableRx => 0xFC3FFFFF#32
  | .serDisableRx => 0xFC3FFFFF#32
  | .spiSetClock => 0xFC3FFFFE#32
  | .spiGetClock => 0xFC3FFFFF#32
  | .spiSetPhase => 0xFC3FFFFE#32
  | .spiGetPhase => 0xFC3FFFFF#32
  | .spiSetRate => 0xFC3FFFFF#32
  | .spiGetRate => 0xFC3FFFFF#32
  | .spiSetChipSelect => 0xFC3FFF00#32
  | .spiGetChipSelect => 0xFC3FFFFF#32
  | .irqDispatch => 0xFC3FFEFF#32
  | .evDmaStep => 0xFC3FFF00#32
  | .evSerLoad => 0xFC3FFFFF#32
  | .evSerShift => 0xFC3FFF00#32
  | .evSerRxArrive => 0xFC3FFF00#32
  | .evHardFault => 0xFFFFFFFF#32

/-- The mnemonic as the opcode table spells it. -/
def Op.text : Op → String
  | .regRead => "REG_READ"
  | .regWrite => "REG_WRITE"
  | .regFieldGet => "REG_FIELD_GET"
  | .regFieldSet => "REG_FIELD_SET"
  | .dmaEnable => "DMA_ENABLE"
  | .dmaDisable => "DMA_DISABLE"
  | .dmaProgram => "DMA_PROGRAM"
  | .dmaStart => "DMA_START"
  | .dmaDoTransfer => "DMA_DO_TRANSFER"
  | .dmaAbort => "DMA_ABORT"
  | .dmaHandleIrq => "DMA_HANDLE_IRQ"
  | .dmaXferCount => "DMA_XFER_COUNT"
  | .dmaSetClient => "DMA_SET_CLIENT"
  | .serConfigureUart => "SER_CONFIGURE_UART"
  | .serSendByte => "SER_SEND_BYTE"
  | .serSendBytes => "SER_SEND_BYTES"
  | .serInitSpi => "SER_INIT_SPI"
  | .serReadWriteBytes => "SER_READ_WRITE_BYTES"
  | .serHandleIrq => "SER_HANDLE_IRQ"
  | .serDmaDone => "SER_DMA_DONE"
  | .serSetClient => "SER_SET_CLIENT"
  | .serAttachDma => "SER_ATTACH_DMA"
  | .serEnableTx => "SER_ENABLE_TX"
  | .serDisableTx => "SER_DISABLE_TX"
  | .serEnableRx => "SER_ENABLE_RX"
  | .serDisableRx => "SER_DISABLE_RX"
  | .spiSetClock => "SPI_SET_CLOCK"
  | .spiGetClock => "SPI_GET_CLOCK"
  | .spiSetPhase => "SPI_SET_PHASE"
  | .spiGetPhase => "SPI_GET_PHASE"
  | .spiSetRate => "SPI_SET_RATE"
  | .spiGetRate => "SPI_GET_RATE"
  | .spiSetChipSelect => "SPI_SET_CHIP_SELECT"
  | .spiGetChipSelect => "SPI_GET_CHIP_SELECT"
  | .irqDispatch => "IRQ_DISPATCH"
  | .evDmaStep => "EV_DMA_STEP"
  | .evSerLoad => "EV_SER_LOAD"
  | .evSerShift => "EV_SER_SHIFT"
  | .evSerRxArrive => "EV_SER_RX_ARRIVE"
  | .evHardFault => "EV_HARD_FAULT"

/-- Whether the host may issue the operation: not a handler entry, and not a step of another agent (R149). -/
def Op.hostMayIssue : Op → Bool
  | .dmaHandleIrq | .serHandleIrq | .serDmaDone | .irqDispatch | .evDmaStep => false
  | .evSerLoad | .evSerShift | .evSerRxArrive | .evHardFault => false
  | _ => true

/-- The mnemonic of an opcode, if the opcode is not reserved (R140, R145). -/
def Op.ofCode? (b : BitVec 6) : Option Op := Op.all.find? (fun o => o.code == b)

/-- The opcode field OPC (R141). -/
def wordOpc (w : Word) : BitVec 6 := w.extractLsb' 26 6

/-- The field IDX (R141). -/
def wordIdx (w : Word) : BitVec 4 := w.extractLsb' 22 4

/-- The field PID (R141). -/
def wordPid (w : Word) : BitVec 6 := w.extractLsb' 16 6

/-- The byte `IMM[7:0]` (R141). -/
def wordByte (w : Word) : Byte := w.extractLsb' 0 8

/-- The bit `IMM[0]` (R141). -/
def wordBit (w : Word) : Bool := w.getLsbD 0

/-- The field `hi = IMM[12:8]` (R141). -/
def wordHi (w : Word) : Fin 32 := (w.extractLsb' 8 5).toFin

/-- The field `lo = IMM[4:0]` (R141). -/
def wordLo (w : Word) : Fin 32 := (w.extractLsb' 0 5).toFin

/-- The channel `IMM[3:0]` of SER_ATTACH_DMA (R141). -/
def wordChan (w : Word) : ChanIx := (w.extractLsb' 0 4).toFin

/-- The line kind `IMM[8]` of IRQ_DISPATCH (R141): false is DmaLine, true is SerLine. -/
def wordKind (w : Word) : Bool := w.getLsbD 8

/-- The operation of a word: its opcode is not reserved (R145), and `(word & mask) == match` (R144). -/
def decodeOp (w : Word) : Except RefuseReason Op :=
  match Op.ofCode? (wordOpc w) with
  | none => .error .reservedEncoding
  | some o => if w &&& o.maskWord = o.matchWord then .ok o else .error .reservedEncoding

/-- The channel of a DMA operation, always in `0 .. 15` (R143). -/
def fieldChan (w : Word) : ChanIx := (wordIdx w).toFin

/-- The engine of a serial operation, refused at `N_SER` and above (R143). -/
def fieldSer (w : Word) : Except RefuseReason SerIx :=
  if h : (wordIdx w).toNat < Config.nSer then .ok ⟨(wordIdx w).toNat, h⟩ else .error .indexOutOfRange

/-- The identity named by the PID field, refused when the code is unmapped (R143). -/
def fieldPid (w : Word) : Except RefuseReason Pid :=
  match Pid.ofCode? (wordPid w).toNat with
  | some p => .ok p
  | none => .error .reservedEncoding

/-- The line of IRQ_DISPATCH: kind 1 with an index of `N_SER` or more is refused (R143). -/
def fieldLine (w : Word) : Except RefuseReason Line :=
  if wordKind w then (fieldSer w).map .ser else .ok (.dma (fieldChan w))

/-- The bit range of a field operation, refused unless `hi >= lo` (R143). -/
def fieldRange (w : Word) : Except RefuseReason (Fin 32 × Fin 32) :=
  if wordLo w ≤ wordHi w then .ok (wordHi w, wordLo w) else .error .reservedEncoding

/-- A reader of side operands: the operand and the words after it, or the reason it has none. -/
abbrev Side (α : Type) := List Word → Except RefuseReason (α × List Word)

/-- One word; with no word left the operand is outside its type. -/
def sideWord : Side Word
  | [] => .error .paramOutOfRange
  | w :: ws => .ok (w, ws)

/-- A buffer: its identity, its address, and its capacity as a low and a high word; refused when it does not fit the
address space (R60; layout: log 13). -/
def sideBuf : Side Buf
  | i :: a :: lo :: hi :: ws =>
    let b : Buf := ⟨i.toNat, a, lo.toNat + 2 ^ 32 * hi.toNat⟩
    if b.wf then .ok (b, ws) else .error .paramOutOfRange
  | _ => .error .paramOutOfRange

/-- An optional buffer: a word 0 for none, or a word 1 and then the buffer (layout: log 13). -/
def sideOptBuf : Side (Option Buf)
  | [] => .error .paramOutOfRange
  | t :: ws =>
    if t = 0#32 then .ok (none, ws)
    else if t = 1#32 then
      match sideBuf ws with
      | .ok (b, ws') => .ok (some b, ws')
      | .error r => .error r
    else .error .paramOutOfRange

/-- An optional DMA client: 0 for none; 1 and a serial index; 2 and a host identity (layout: log 13). -/
def sideDmaClient : Side (Option DmaClient)
  | [] => .error .paramOutOfRange
  | t :: ws =>
    if t = 0#32 then .ok (none, ws)
    else
      match ws with
      | [] => .error .paramOutOfRange
      | k :: ws' =>
        if t = 1#32 then
          if h : k.toNat < Config.nSer then .ok (some (.serEngine ⟨k.toNat, h⟩), ws') else .error .paramOutOfRange
        else if t = 2#32 then .ok (some (.ext k.toNat), ws')
        else .error .paramOutOfRange

/-- A serial client: 0 for NoClient; 1 and a UART client's identity; 2 and an SPI client's (layout: log 13). -/
def sideSerClient : Side SerClient
  | [] => .error .paramOutOfRange
  | t :: ws =>
    if t = 0#32 then .ok (.noClient, ws)
    else
      match ws with
      | [] => .error .paramOutOfRange
      | k :: ws' =>
        if t = 1#32 then .ok (.uartClient k.toNat, ws')
        else if t = 2#32 then .ok (.spiClient k.toNat, ws')
        else .error .paramOutOfRange

/-- `CHRL` of a number of data bits (R131, R134). -/
def DataBits.code : DataBits → BitVec 8
  | .five => 0
  | .six => 1
  | .seven => 2
  | .eight => 3

/-- `PAR` of a parity (R131, R134). -/
def Parity.code : Parity → BitVec 8
  | .even => 0
  | .odd => 1
  | .space => 2
  | .mark => 3
  | .none => 4

/-- `NBSTOP` of a number of stop bits (R131, R134). -/
def StopBits.code : StopBits → BitVec 8
  | .one => 0
  | .oneAndHalf => 1
  | .two => 2

/-- The number of data bits a code stands for, if it is one of the set (R136). -/
def DataBits.ofCode? (b : BitVec 8) : Option DataBits := [.five, .six, .seven, .eight].find? (fun x => x.code == b)

/-- The parity a code stands for, if it is one of the set (R136). -/
def Parity.ofCode? (b : BitVec 8) : Option Parity := [.even, .odd, .space, .mark, .none].find? (fun x => x.code == b)

/-- The stop bits a code stands for, if it is one of the set (R136). -/
def StopBits.ofCode? (b : BitVec 8) : Option StopBits := [.one, .oneAndHalf, .two].find? (fun x => x.code == b)

/-- The UART parameters: the baud rate, then a word with the data-bit code in its lowest byte, the parity code in the next
and the stop-bit code in the third, its highest byte 0. A value outside R136's sets cannot be formed and is refused
(layout: log 13). -/
def sideParams : Side UartParams
  | baud :: f :: ws =>
    match DataBits.ofCode? (f.extractLsb' 0 8), Parity.ofCode? (f.extractLsb' 8 8), StopBits.ofCode? (f.extractLsb' 16 8) with
    | some d, some p, some t =>
      if f.extractLsb' 24 8 = 0#8 then .ok (⟨baud, d, p, t⟩, ws) else .error .paramOutOfRange
    | _, _, _ => .error .paramOutOfRange
  | _ => .error .paramOutOfRange

/-- The operands of an operation whose word `w` has passed R144's check: its word fields, then its side operands from the
words after it (R142, R143). -/
def decodeOperands (o : Op) (w : Word) (ws : List Word) : Except RefuseReason (Instr × List Word) :=
  match o with
  | .regRead => do
    let (a, ws) ← sideWord ws
    return (.regRead a, ws)
  | .regWrite => do
    let (a, ws) ← sideWord ws
    let (v, ws) ← sideWord ws
    return (.regWrite a v, ws)
  | .regFieldGet => do
    let (hi, lo) ← fieldRange w
    let (a, ws) ← sideWord ws
    return (.regFieldGet hi lo a, ws)
  | .regFieldSet => do
    let (hi, lo) ← fieldRange w
    let (a, ws) ← sideWord ws
    let (v, ws) ← sideWord ws
    return (.regFieldSet hi lo a v, ws)
  | .dmaEnable => .ok (.dmaEnable (fieldChan w), ws)
  | .dmaDisable => .ok (.dmaDisable (fieldChan w), ws)
  | .dmaProgram => do
    let p ← fieldPid w
    let (b, ws) ← sideBuf ws
    let (n, ws) ← sideWord ws
    return (.dmaProgram (fieldChan w) p b n, ws)
  | .dmaStart => .ok (.dmaStart (fieldChan w), ws)
  | .dmaDoTransfer => do
    let p ← fieldPid w
    let (b, ws) ← sideBuf ws
    let (n, ws) ← sideWord ws
    return (.dmaDoTransfer (fieldChan w) p b n, ws)
  | .dmaAbort => .ok (.dmaAbort (fieldChan w), ws)
  | .dmaHandleIrq => .ok (.dmaHandleIrq (fieldChan w), ws)
  | .dmaXferCount => .ok (.dmaXferCount (fieldChan w), ws)
  | .dmaSetClient => do
    let (k, ws) ← sideDmaClient ws
    return (.dmaSetClient (fieldChan w) k, ws)
  | .serConfigureUart => do
    let e ← fieldSer w
    let (p, ws) ← sideParams ws
    return (.serConfigureUart e p, ws)
  | .serSendByte => do
    let e ← fieldSer w
    return (.serSendByte e (wordByte w), ws)
  | .serSendBytes => do
    let e ← fieldSer w
    let (b, ws) ← sideBuf ws
    let (n, ws) ← sideWord ws
    return (.serSendBytes e b n, ws)
  | .serInitSpi => do
    let e ← fieldSer w
    return (.serInitSpi e, ws)
  | .serReadWriteBytes => do
    let e ← fieldSer w
    let (b, ws) ← sideBuf ws
    let (r, ws) ← sideOptBuf ws
    let (n, ws) ← sideWord ws
    return (.serReadWriteBytes e b r n, ws)
  | .serHandleIrq => do
    let e ← fieldSer w
    return (.serHandleIrq e, ws)
  | .serDmaDone => do
    let e ← fieldSer w
    let p ← fieldPid w
    return (.serDmaDone e p, ws)
  | .serSetClient => do
    let e ← fieldSer w
    let (k, ws) ← sideSerClient ws
    return (.serSetClient e k, ws)
  | .serAttachDma => do
    let e ← fieldSer w
    let p ← fieldPid w
    return (.serAttachDma e p (wordChan w), ws)
  | .serEnableTx => do
    let e ← fieldSer w
    return (.serEnableTx e, ws)
  | .serDisableTx => do
    let e ← fieldSer w
    return (.serDisableTx e, ws)
  | .serEnableRx => do
    let e ← fieldSer w
    return (.serEnableRx e, ws)
  | .serDisableRx => do
    let e ← fieldSer w
    return (.serDisableRx e, ws)
  | .spiSetClock => do
    let e ← fieldSer w
    return (.spiSetClock e (wordBit w), ws)
  | .spiGetClock => do
    let e ← fieldSer w
    return (.spiGetClock e, ws)
  | .spiSetPhase => do
    let e ← fieldSer w
    return (.spiSetPhase e (wordBit w), ws)
  | .spiGetPhase => do
    let e ← fieldSer w
    return (.spiGetPhase e, ws)
  | .spiSetRate => do
    let e ← fieldSer w
    let (v, ws) ← sideWord ws
    return (.spiSetRate e v, ws)
  | .spiGetRate => do
    let e ← fieldSer w
    return (.spiGetRate e, ws)
  | .spiSetChipSelect => do
    let e ← fieldSer w
    return (.spiSetChipSelect e (wordByte w), ws)
  | .spiGetChipSelect => do
    let e ← fieldSer w
    return (.spiGetChipSelect e, ws)
  | .irqDispatch => do
    let l ← fieldLine w
    return (.irqDispatch l, ws)
  | .evDmaStep => .ok (.evDmaStep (fieldChan w) (wordByte w), ws)
  | .evSerLoad => do
    let e ← fieldSer w
    return (.evSerLoad e, ws)
  | .evSerShift => do
    let e ← fieldSer w
    return (.evSerShift e (wordByte w), ws)
  | .evSerRxArrive => do
    let e ← fieldSer w
    return (.evSerRxArrive e (wordByte w), ws)
  | .evHardFault => .ok (.evHardFault, ws)

/-- The decoder: the operation that a list of words begins with and the words after it, or the reason it is refused. No
word at all is a missing operation, refused as a reserved encoding. -/
def decode : List Word → Except RefuseReason (Instr × List Word)
  | [] => .error .reservedEncoding
  | w :: ws =>
    match decodeOp w with
    | .ok o => decodeOperands o w ws
    | .error r => .error r

/-- An operation word from its four fields (R141). -/
def mkWord (o : Op) (idx : BitVec 4) (pid : BitVec 6) (imm : BitVec 16) : Word := o.code ++ idx ++ pid ++ imm

/-- IDX of a channel (R141). -/
def chanBits (c : ChanIx) : BitVec 4 := BitVec.ofNat 4 c.val

/-- IDX of a serial engine (R141). -/
def serBits (e : SerIx) : BitVec 4 := BitVec.ofNat 4 e.val

/-- PID of an identity (R141). -/
def pidBits (p : Pid) : BitVec 6 := BitVec.ofNat 6 p.code

/-- IMM with a byte in its low half (R141). -/
def byteImm (b : Byte) : BitVec 16 := 0#8 ++ b

/-- IMM with a bit in place 0 (R141). -/
def bitImm (v : Bool) : BitVec 16 := 0#15 ++ BitVec.ofBool v

/-- IMM with `hi` in 12..8 and `lo` in 4..0 (R141). -/
def rangeImm (hi lo : Fin 32) : BitVec 16 := 0#3 ++ BitVec.ofNat 5 hi.val ++ 0#3 ++ BitVec.ofNat 5 lo.val

/-- IMM with a channel in 3..0 (R141). -/
def chanImm (c : ChanIx) : BitVec 16 := 0#12 ++ BitVec.ofNat 4 c.val

/-- IMM with the line kind in place 8 (R141). -/
def kindImm (v : Bool) : BitVec 16 := 0#7 ++ BitVec.ofBool v ++ 0#8

/-- The side-operand words of a buffer (log 13). -/
def encBuf (b : Buf) : List Word :=
  [BitVec.ofNat 32 b.id, b.addr, BitVec.ofNat 32 b.cap, BitVec.ofNat 32 (b.cap / 2 ^ 32)]

/-- The side-operand words of an optional buffer (log 13). -/
def encOptBuf : Option Buf → List Word
  | none => [0#32]
  | some b => 1#32 :: encBuf b

/-- The side-operand words of an optional DMA client (log 13). -/
def encDmaClient : Option DmaClient → List Word
  | none => [0#32]
  | some (.serEngine e) => [1#32, BitVec.ofNat 32 e.val]
  | some (.ext k) => [2#32, BitVec.ofNat 32 k]

/-- The side-operand words of a serial client (log 13). -/
def encSerClient : SerClient → List Word
  | .noClient => [0#32]
  | .uartClient k => [1#32, BitVec.ofNat 32 k]
  | .spiClient k => [2#32, BitVec.ofNat 32 k]

/-- The side-operand words of UART parameters (log 13). -/
def encParams (p : UartParams) : List Word :=
  [p.baud, 0#8 ++ p.stopBits.code ++ p.parity.code ++ p.dataBits.code]

/-- The encoder: the operation word and the side-operand words of an instruction (R141, R142). -/
def encode : Instr → List Word
  | .regRead a => [mkWord .regRead 0 0 0, a]
  | .regWrite a v => [mkWord .regWrite 0 0 0, a, v]
  | .regFieldGet hi lo a => [mkWord .regFieldGet 0 0 (rangeImm hi lo), a]
  | .regFieldSet hi lo a v => [mkWord .regFieldSet 0 0 (rangeImm hi lo), a, v]
  | .dmaEnable c => [mkWord .dmaEnable (chanBits c) 0 0]
  | .dmaDisable c => [mkWord .dmaDisable (chanBits c) 0 0]
  | .dmaProgram c p b n => mkWord .dmaProgram (chanBits c) (pidBits p) 0 :: (encBuf b ++ [n])
  | .dmaStart c => [mkWord .dmaStart (chanBits c) 0 0]
  | .dmaDoTransfer c p b n => mkWord .dmaDoTransfer (chanBits c) (pidBits p) 0 :: (encBuf b ++ [n])
  | .dmaAbort c => [mkWord .dmaAbort (chanBits c) 0 0]
  | .dmaHandleIrq c => [mkWord .dmaHandleIrq (chanBits c) 0 0]
  | .dmaXferCount c => [mkWord .dmaXferCount (chanBits c) 0 0]
  | .dmaSetClient c k => mkWord .dmaSetClient (chanBits c) 0 0 :: encDmaClient k
  | .serConfigureUart e p => mkWord .serConfigureUart (serBits e) 0 0 :: encParams p
  | .serSendByte e b => [mkWord .serSendByte (serBits e) 0 (byteImm b)]
  | .serSendBytes e b n => mkWord .serSendBytes (serBits e) 0 0 :: (encBuf b ++ [n])
  | .serInitSpi e => [mkWord .serInitSpi (serBits e) 0 0]
  | .serReadWriteBytes e b r n => mkWord .serReadWriteBytes (serBits e) 0 0 :: (encBuf b ++ encOptBuf r ++ [n])
  | .serHandleIrq e => [mkWord .serHandleIrq (serBits e) 0 0]
  | .serDmaDone e p => [mkWord .serDmaDone (serBits e) (pidBits p) 0]
  | .serSetClient e k => mkWord .serSetClient (serBits e) 0 0 :: encSerClient k
  | .serAttachDma e p c => [mkWord .serAttachDma (serBits e) (pidBits p) (chanImm c)]
  | .serEnableTx e => [mkWord .serEnableTx (serBits e) 0 0]
  | .serDisableTx e => [mkWord .serDisableTx (serBits e) 0 0]
  | .serEnableRx e => [mkWord .serEnableRx (serBits e) 0 0]
  | .serDisableRx e => [mkWord .serDisableRx (serBits e) 0 0]
  | .spiSetClock e v => [mkWord .spiSetClock (serBits e) 0 (bitImm v)]
  | .spiGetClock e => [mkWord .spiGetClock (serBits e) 0 0]
  | .spiSetPhase e v => [mkWord .spiSetPhase (serBits e) 0 (bitImm v)]
  | .spiGetPhase e => [mkWord .spiGetPhase (serBits e) 0 0]
  | .spiSetRate e v => [mkWord .spiSetRate (serBits e) 0 0, v]
  | .spiGetRate e => [mkWord .spiGetRate (serBits e) 0 0]
  | .spiSetChipSelect e b => [mkWord .spiSetChipSelect (serBits e) 0 (byteImm b)]
  | .spiGetChipSelect e => [mkWord .spiGetChipSelect (serBits e) 0 0]
  | .irqDispatch (.dma c) => [mkWord .irqDispatch (chanBits c) 0 (kindImm false)]
  | .irqDispatch (.ser e) => [mkWord .irqDispatch (serBits e) 0 (kindImm true)]
  | .evDmaStep c x => [mkWord .evDmaStep (chanBits c) 0 (byteImm x)]
  | .evSerLoad e => [mkWord .evSerLoad (serBits e) 0 0]
  | .evSerShift e m => [mkWord .evSerShift (serBits e) 0 (byteImm m)]
  | .evSerRxArrive e x => [mkWord .evSerRxArrive (serBits e) 0 (byteImm x)]
  | .evHardFault => [mkWord .evHardFault 0 0 0]

/-- The most side-operand words an operation has: SER_READ_WRITE_BYTES, with two buffers, a tag and a length. -/
def maxSideWords : Nat := 10

/-- The words of an operation word with side operands of zeros, as many as the longest operation has. -/
def paddedWords (w : Nat) : List Word := BitVec.ofNat 32 w :: List.replicate maxSideWords 0#32

/-- The instruction the decoder reads from an opcode-table word with side operands of zeros. Every row of the table is one
32-bit word, so `nbits` is 32 and bits of `w` above it are dropped. -/
def decodeTableWord (nbits w : Nat) : Option Instr :=
  match decode (paddedWords (w % 2 ^ nbits)) with
  | .ok (i, _) => some i
  | .error _ => none

end Sys2Proof
end

