-- ==== Sys2Proof/Machine/Flags.lean ====
section
/-! DEFINITION. The derived status: channel ISR and request, serial CSR and request, line conditions (R45 to R49, R57 to R59). -/

namespace Sys2Proof.Machine

/-- `ch[c]`. -/
def State.chan (s : State) (c : ChanIx) : Chan := s.ch.get c

/-- `ser[s]`. -/
def State.eng (s : State) (e : SerIx) : Ser := s.ser.get e

/-- Channel ISR (R47): TRC (bit 1) is `TCR = 0`, RCZ (bit 0) is 1, TERR (bit 2) is 0. -/
def chanIsr (x : Chan) : BitVec 3 := if x.tcr = 0 then 0b011#3 else 0b001#3

/-- Channel SR (R45): bit 0 is TEN. -/
def chanSr (x : Chan) : Word := if x.ten then 1 else 0

/-- `ch_irq(c) = (ISR & IMR) != 0` (R47). -/
def chanIrq (x : Chan) : Bool := decide (chanIsr x &&& x.imr ≠ 0)

/-- `CSR.TXRDY = TXEN and not thr_full` (R58). -/
def serTxrdy (x : Ser) : Bool := x.txen && !x.thrFull

/-- Serial CSR: bit 0 RXRDY, bit 1 TXRDY, bit 5 OVRE (R58, R59). -/
def serCsr (x : Ser) : Word :=
  (if x.rxrdy then 0x01#32 else 0) ||| (if serTxrdy x then 0x02#32 else 0) ||| (if x.ovre then 0x20#32 else 0)

/-- `ser_irq(s) = (CSR & IMR) != 0` (R57). -/
def serIrq (x : Ser) : Bool := decide (serCsr x &&& x.imr ≠ 0)

/-- The chip-select pin's level, `not cs_asserted` (R57). -/
def csPinLevel (x : Ser) : Bool := !x.csAsserted

/-- Whether a line is asserted (R49). -/
def lineAsserted (s : State) : Line → Bool
  | .dma c => chanIrq (s.chan c)
  | .ser e => serIrq (s.eng e)

/-- `line[l].masked` (R49). -/
def lineMasked (s : State) : Line → Bool
  | .dma c => s.dmaMasked.get c
  | .ser e => s.serMasked.get e

/-- The code number of a fault (R350). -/
def FaultRec.code : FaultRec → Nat
  | .unmappedSelector _ _ => 1
  | .bufferOverwrite _ _ _ => 2
  | .transferOutstanding _ => 3
  | .wrongMode _ _ => 4
  | .spiLengthInvalid _ _ => 5
  | .clockGatedAccess _ => 6
  | .noClient _ _ => 7
  | .clientShapeMismatch _ => 8
  | .reconfigureWhileBusy _ => 9
  | .noDmaChannel _ => 10
  | .baudInvalid _ _ => 11
  | .lengthTooLarge _ _ => 12
  | .dmaOutOfBuffer _ _ => 13
  | .hardFault _ => 14

end Sys2Proof.Machine
end

