-- ==== Sys2Proof/Machine/Memory.lean ====
section
/-! DEFINITION. Data memory (20_memory section 1, R62, R96) and the buffer table with its owner map (R60, R61): both sparse
lists in one canonical form, and the operations that keep it. -/

namespace Sys2Proof.Machine

/-- What a byte of data memory reads as that nothing has written (R62, R77: the host's contents, which no rule gives).
DESIGN CHOICE, unsafe: 0 (log 7). -/
def unlistedByte : Byte := 0

/-- The byte at an address: `MemRead(a, 1)`. -/
def memRead : Mem → Nat → Byte
  | [], _ => unlistedByte
  | (a', b) :: m, a => if a = a' then b else memRead m a

/-- The memory after one byte is written: `MemWrite(a, 1, x)`. Writing what an unlisted address reads as removes the
entry, so that equal memories are equal lists. -/
def memWrite : Mem → Nat → Byte → Mem
  | [], a, x => if x = unlistedByte then [] else [(a, x)]
  | (a', b) :: m, a, x =>
    if a < a' then (if x = unlistedByte then (a', b) :: m else (a, x) :: (a', b) :: m)
    else if a = a' then (if x = unlistedByte then m else (a, x) :: m)
    else (a', b) :: memWrite m a x

/-- The canonical form of memory: addresses within 32 bits and strictly rising, no entry equal to what an unlisted address
reads as. -/
def Memory.wf : Mem → Bool
  | [] => true
  | (a, b) :: m => decide (b ≠ unlistedByte) && decide (a < 2 ^ 32) && m.all (fun c => decide (a < c.1)) && Memory.wf m

/-- The owner of a buffer id: the host, unless the table says otherwise (R61; log 8). -/
def bufOwner : BufTable → Nat → Owner
  | [], _ => .host
  | e :: t, i => if i = e.buf.id then e.owner else bufOwner t i

/-- The table after `owner(b.id) <- o`. Giving a buffer back to the host removes its entry. -/
def bufSet : BufTable → Buf → Owner → BufTable
  | [], b, o => if o = .host then [] else [⟨b, o⟩]
  | e :: t, b, o =>
    if b.id < e.buf.id then (if o = .host then e :: t else ⟨b, o⟩ :: e :: t)
    else if b.id = e.buf.id then (if o = .host then t else ⟨b, o⟩ :: t)
    else e :: bufSet t b o

/-- The canonical form of the buffer table: ids strictly rising, no entry owned by the host. -/
def Buffers.wf : BufTable → Bool
  | [] => true
  | e :: t => decide (e.owner ≠ .host) && t.all (fun f => decide (e.buf.id < f.buf.id)) && Buffers.wf t

/-- Whether an address lies inside a buffer: `addr .. addr + cap - 1` (R60). -/
def bufCovers (b : Buf) (a : Word) : Bool := decide (b.addr.toNat ≤ a.toNat) && decide (a.toNat < b.addr.toNat + b.cap)

/-- Whether an address lies inside a buffer that `who` owns (R96). -/
def ownsAddr (t : BufTable) (who : Owner) (a : Word) : Bool := t.any (fun e => decide (e.owner = who) && bufCovers e.buf a)

end Sys2Proof.Machine
end

