-- ==== Sys2Proof/Machine/Operands.lean ====
section
/-! DEFINITION. What the operations compute from their operands: bit-fields, the length clamp, selectors and peripherals, the
UART and SPI words, and the busy condition. -/

namespace Sys2Proof.Machine

/-- `mask(hi,lo)`: ones in bits `hi..lo` (R95). -/
def fieldMask (hi lo : Fin 32) : Word := ((BitVec.allOnes 32) >>> (31 - hi.val + lo.val)) <<< lo.val

/-- `v[hi:lo]` (R18, R95). -/
def fieldGet (v : Word) (hi lo : Fin 32) : Word := (v &&& fieldMask hi lo) >>> lo.val

/-- The word that FieldSet writes: `(t & ~mask) | ((v << lo) & mask)` (R95). -/
def fieldPut (t : Word) (hi lo : Fin 32) (v : Word) : Word :=
  (t &&& ~~~(fieldMask hi lo)) ||| ((v <<< lo.val) &&& fieldMask hi lo)

/-- One bit of a word, as the word 0 or 1 (R18). -/
def bitWord (v : Bool) : Word := if v then 1 else 0

/-- `n = min(len, buf.cap)` (R187). -/
def clampLen (len : Word) (b : Buf) : Nat := min len.toNat b.cap

/-- The largest length TCR holds, `2^TCR_WIDTH - 1` (R13). -/
def maxTransfer : Nat := 2 ^ Config.tcrWidth - 1

/-- The selector word of an identity, `zext_32(PID_CODE(pid))` (R125). -/
def selectorWord (p : Pid) : Word := BitVec.ofNat 32 p.code

/-- `DECODE(sel)` (R231): the identity whose code is the whole 32-bit word. -/
def decodeSelector (sel : Word) : Option Pid := Pid.ofCode? sel.toNat

/-- A peripheral as the DMA handshake sees it (R234). -/
inductive Periph where
  | engine (e : SerIx)
  | external (n : PeriphName)
deriving DecidableEq, Repr

/-- `periph(p)` (R234): `USART<s>` with `s < N_SER` is serial engine `s`. -/
def periphOf (p : Pid) : Periph :=
  match p.periphName with
  | .usart n => if h : n.val < Config.nSer then .engine ⟨n.val, h⟩ else .external (.usart n)
  | x => .external x

/-- The divisor of a baud rate, or none where BAUD_INVALID is raised (R262). -/
def baudDivisor? (baud : Word) : Option (BitVec 16) :=
  if baud = 0 then none
  else
    let cd := Config.baudDivisor Config.refClkHz baud.toNat Config.overSel
    if cd = 0 ∨ 0xFFFF < cd then none else some (BitVec.ofNat 16 cd)

/-- The baud generator word `zext_32(cd[15:0])`, with FP = 0 (R137). -/
def brgrWord (cd : BitVec 16) : Word := cd.zeroExtend 32

/-- `MR_UART(p)` (R134). -/
def mrUart (p : UartParams) : Word :=
  (p.dataBits.code.zeroExtend 32 <<< 6) ||| (p.parity.code.zeroExtend 32 <<< 9) ||| (p.stopBits.code.zeroExtend 32 <<< 12)
    ||| (BitVec.ofNat 32 Config.overSel <<< 19)

/-- `MR_SPI` (R135): SPI master, 8 bits, no parity, the engine driving the clock line. -/
def mrSpi : Word := 0xE#32 ||| (3#32 <<< 6) ||| (4#32 <<< 9) ||| (1#32 <<< 18)

/-- CR command words of a channel (R130). -/
def crTen : Word := 0x00000001
/-- The transfer-complete interrupt of a channel (R130). -/
def imrTrc : Word := 0x00000002
/-- Every interrupt of a channel (R130). -/
def idrAll : Word := 0xFFFFFFFF

/-- The serial CR command that enables the receiver (R132). -/
def crRxen : Word := 0x00000010
/-- The serial CR command that disables the receiver (R132). -/
def crRxdis : Word := 0x00000020
/-- The serial CR command that enables the transmitter (R132). -/
def crTxen : Word := 0x00000040
/-- The serial CR command that disables the transmitter (R132). -/
def crTxdis : Word := 0x00000080
/-- The serial CR command that forces chip-select (R132). -/
def crFcs : Word := 0x00040000
/-- The serial CR command that releases chip-select (R132). -/
def crRcs : Word := 0x00080000
/-- The receive interrupt of a serial engine (R133). -/
def siRxrdy : Word := 0x00000001

/-- `MR[3:0]` of a serial engine: MODE (R131). -/
def serModeField (x : Ser) : BitVec 4 := x.mr.extractLsb' 0 4

/-- `busy(s)` (R274): an SPI exchange is outstanding, or the attached channel's slot is full. -/
def engineBusy (s : State) (e : SerIx) : Bool :=
  (s.eng e).ctx.isSome ||
    (match (s.eng e).dma with
     | some (c, _) => (s.chan c).slot.isSome
     | none => false)

end Sys2Proof.Machine
end

