-- ==== Sys2Proof/Machine/Regs.lean ====
section
/-! DEFINITION. The registers: the one place where each is read and written, with its read and write effects (10_state R42 to
R59; 20_memory R91, R92). -/

namespace Sys2Proof.Machine

/-- The state with channel `c` replaced. -/
def State.setChan (s : State) (c : ChanIx) (x : Chan) : State := { s with ch := s.ch.set c.val x c.isLt }

/-- The state with engine `e` replaced. -/
def State.setEng (s : State) (e : SerIx) (x : Ser) : State := { s with ser := s.ser.set e.val x e.isLt }

/-- Emit an event (R19): append it to the history. -/
def emit (ev : Event) (s : State) : State := { s with events := s.events ++ [ev] }

/-- The state after `n` draws have been used (log 4). -/
def State.advance (s : State) (n : Nat) : State := { s with sched := { s.sched with draws := s.sched.draws + n } }

/-- A write to a channel register (R42 to R48, R92): IER and IDR act on IMR, CR on TEN with TDIS winning (R45); ECLR has no
effect (93 U25); the read-only registers ignore it. -/
def chanWrite (r : ChanReg) (v : Word) (x : Chan) : Chan :=
  match r with
  | .mar => { x with mar := v }
  | .psr => { x with psr := v }
  | .tcr => { x with tcr := v.extractLsb' 0 Config.tcrWidth }
  | .cr => { x with ten := if v.getLsbD 1 then false else if v.getLsbD 0 then true else x.ten }
  | .mr => { x with mr := v }
  | .sr => x
  | .ier => { x with imr := x.imr ||| v.extractLsb' 0 3 }
  | .idr => { x with imr := x.imr &&& ~~~(v.extractLsb' 0 3) }
  | .imr => x
  | .isr => x

/-- A read of a channel register (R91): its value, or none for a write-only register, whose read is a draw. -/
def chanRead? (r : ChanReg) (x : Chan) : Option Word :=
  match r with
  | .mar => some x.mar
  | .psr => some x.psr
  | .tcr => some (x.tcr.zeroExtend 32)
  | .cr => none
  | .mr => some x.mr
  | .sr => some (chanSr x)
  | .ier => none
  | .idr => none
  | .imr => some (x.imr.zeroExtend 32)
  | .isr => some ((chanIsr x).zeroExtend 32)

/-- What a CR write leaves in an enable (R58, R59): the disable bit wins over the enable bit; the reset bit clears it. With
the enable and the reset bit set and no disable bit, no rule says which wins: `clash` decides (log 12). -/
def enableAfter (en dis rst clash old : Bool) : Bool :=
  if dis then false else if en && rst then clash else if en then true else if rst then false else old

/-- Engine `e` after a CR write of `v` (R57, R58, R59). -/
def crEngine (e : SerIx) (v : Word) (x : Ser) : Ser :=
  { x with
    txen := enableAfter (v.getLsbD 6) (v.getLsbD 7) (v.getLsbD 3) (Config.txenAfterClash e v) x.txen
    thrFull := x.thrFull && !v.getLsbD 3
    shift := if v.getLsbD 3 then none else x.shift
    rxen := enableAfter (v.getLsbD 4) (v.getLsbD 5) (v.getLsbD 2) (Config.rxenAfterClash e v) x.rxen
    rxrdy := x.rxrdy && !v.getLsbD 2
    ovre := x.ovre && !(v.getLsbD 2 || v.getLsbD 8)
    csAsserted := if v.getLsbD 19 then false else if v.getLsbD 18 then true else x.csAsserted }

/-- A write to serial CR: the engine's bits, and a CsPin event when chip-select changes (R315). -/
def crWrite (e : SerIx) (v : Word) (s : State) : State :=
  let y := crEngine e v (s.eng e)
  let s1 := s.setEng e y
  if y.csAsserted = (s.eng e).csAsserted then s1 else emit (.csPin e (csPinLevel y)) s1

/-- A write to THR (R282): an empty THR takes the byte; on a full one a draw decides which byte is lost. -/
def thrWrite (e : SerIx) (b : Byte) (s : State) : State :=
  let x := s.eng e
  if x.thrFull then
    (s.setEng e { x with thr := if Config.drawBool s.sched.draws then b else x.thr }).advance 1
  else s.setEng e { x with thr := b, thrFull := true }

/-- The modelled interrupt bits of a serial engine: RXRDY, TXRDY and OVRE (R57). -/
def serIntBits : Word := 0x23

/-- A write to a serial register (R56 to R59, R92). -/
def serWrite (e : SerIx) (r : SerReg) (v : Word) (s : State) : State :=
  let x := s.eng e
  match r with
  | .cr => crWrite e v s
  | .mr => s.setEng e { x with mr := v }
  | .ier => s.setEng e { x with imr := x.imr ||| (v &&& serIntBits) }
  | .idr => s.setEng e { x with imr := x.imr &&& ~~~(v &&& serIntBits) }
  | .imr => s
  | .csr => s
  | .rhr => s
  | .thr => thrWrite e (v.extractLsb' 0 8) s
  | .brgr => s.setEng e { x with brgr := v }
  | .ttgr => s.setEng e { x with ttgr := v }

/-- A read of a serial register without its side effect (R91): its value, or none for a write-only register. -/
def serRead? (r : SerReg) (x : Ser) : Option Word :=
  match r with
  | .cr => none
  | .mr => some x.mr
  | .ier => none
  | .idr => none
  | .imr => some x.imr
  | .csr => some (serCsr x)
  | .rhr => some (x.rhr.zeroExtend 32)
  | .thr => none
  | .brgr => some x.brgr
  | .ttgr => some x.ttgr

/-- Whether the clock of a register's block is on (R93). -/
def clocked (s : State) : RegRef → Bool
  | .chan _ _ => s.dmaGate
  | .ser e _ => (s.eng e).clkOn

/-- The value that a read of a register gives: the register's, or the draw of a write-only one (R91). -/
def regValue (r : RegRef) (s : State) : Word :=
  match r with
  | .chan c q => (chanRead? q (s.chan c)).getD (Config.drawWord s.sched.draws)
  | .ser e q => (serRead? q (s.eng e)).getD (Config.drawWord s.sched.draws)

/-- The state after a read of a register: a read of RHR clears RXRDY, and a read of a write-only register uses up a draw;
no other read has an effect (R59, R91, R101). -/
def regReadEffect (r : RegRef) (s : State) : State :=
  match r with
  | .chan c q => if (chanRead? q (s.chan c)).isSome then s else s.advance 1
  | .ser e .rhr => s.setEng e { s.eng e with rxrdy := false }
  | .ser e q => if (serRead? q (s.eng e)).isSome then s else s.advance 1

/-- The state after a write to a register (R92). -/
def regWriteEffect (r : RegRef) (v : Word) (s : State) : State :=
  match r with
  | .chan c q => s.setChan c (chanWrite q v (s.chan c))
  | .ser e q => serWrite e q v s

end Sys2Proof.Machine
end

