-- ==== Sys2Proof/Machine/Ops.lean ====
section
/-! DEFINITION. The shared operations: raising a fault, refusing, entering and leaving a handler, the clock collaborator, the
accesses (20_memory R91 to R96), the CPU agent's run of an operation access by access (R21, R97), and the host's, the
handlers' and the agents' ways into a meaning. -/

namespace Sys2Proof.Machine

/-- `raise Fault(code, info)` (R351): the fault record is set, the report is emitted, the CPU agent is stopped. Every
effect before it stays. No later step of any agent is enabled (`runHost`, `runHandler`, `runAgent`). -/
def raise (f : FaultRec) (s : State) : State :=
  emit (.faultReport f) { s with fault := some f, cur := none }

/-- `refuse(reason)` (R360): its effect is only the mark. The reason is kept beside it (log 10). -/
def refuse (r : RefuseReason) (s : State) : State :=
  { s with refused := true, sched := { s.sched with why := some r } }

/-- The domains of the clock collaborator (R37). -/
inductive ClockDomain where
  | dma
  | ser (e : SerIx)
deriving DecidableEq, Repr

/-- The clock collaborator's `enable_clock` and `disable_clock` (R37): a call takes effect at once. -/
def setClock (d : ClockDomain) (on : Bool) (s : State) : State :=
  match d with
  | .dma => { s with dmaGate := on }
  | .ser e => s.setEng e { s.eng e with clkOn := on }

/-- `line[l].masked <- v` (R49). -/
def setMask (l : Line) (v : Bool) (s : State) : State :=
  match l with
  | .dma c => { s with dmaMasked := s.dmaMasked.set c.val v c.isLt }
  | .ser e => { s with serMasked := s.serMasked.set e.val v e.isLt }

/-- `owner(b.id) <- o` (R61). -/
def setOwner (b : Buf) (o : Owner) (s : State) : State := { s with bufs := bufSet s.bufs b o }

/-- The return of an optional buffer to the host. -/
def giveBack (r : Option Buf) (s : State) : State :=
  match r with
  | some b => setOwner b .host s
  | none => s

/-- Trap entry (R240, R369): the handler of the line becomes the operation in progress, at its first step. Nothing is saved,
since the CPU agent is between operations, and nothing else changes. -/
def trapEntry (l : Line) (s : State) : State := { s with cur := some ⟨lineHandler l, 0, 0⟩ }

/-- The position of the CPU agent, `cpu.cur <- c` (R31). -/
def setCur (c : Option Cur) (s : State) : State := { s with cur := c }

/-- The end of an operation, and trap return (R370): the CPU agent is between operations again; nothing is restored. -/
def finish (s : State) : State := setCur none s

/-- An access: it is made, with its value, or it ends the operation (by a fault or a refusal). -/
inductive Access (α : Type) where
  | done (v : α) (s : State)
  | stop (s : State)
deriving DecidableEq, Repr

/-- `RegRead(a)` (R91, R93, R94). The refusal is checked before the fault (R356; log 26). -/
def regRead (a : Word) (s : State) : Access Word :=
  match regAt a with
  | none => .stop (refuse .unmodelledRegister s)
  | some r => if clocked s r then .done (regValue r s) (regReadEffect r s) else .stop (raise (.clockGatedAccess a) s)

/-- `RegWrite(a, v)` (R92, R93, R94). -/
def regWrite (a v : Word) (s : State) : Access Unit :=
  match regAt a with
  | none => .stop (refuse .unmodelledRegister s)
  | some r => if clocked s r then .done () (regWriteEffect r v s) else .stop (raise (.clockGatedAccess a) s)

/-- `MemRead(a, 1)` by the agent `who`, which must own a buffer with the address (R96). -/
def byteRead (who : Owner) (a : Word) (s : State) : Access Byte :=
  if ownsAddr s.bufs who a then .done (memRead s.mem a.toNat) s else .stop (raise (.dmaOutOfBuffer who a) s)

/-- `MemWrite(a, 1, x)` by the agent `who`, which must own a buffer with the address (R96). -/
def byteWrite (who : Owner) (a : Word) (x : Byte) (s : State) : Access Unit :=
  if ownsAddr s.bufs who a then .done () { s with mem := memWrite s.mem a.toNat x }
  else .stop (raise (.dmaOutOfBuffer who a) s)

/-- What one primitive step of a CPU operation comes to (R21). -/
inductive Micro where
  /-- The step is made; the operation goes on at step `k`, with `tmp` left for it. -/
  | go (k : Nat) (tmp : Word) (s : State)
  /-- The CPU agent holds: the step leaves everything as it is and will be tried again (R19, R263). -/
  | hold
  /-- The step is made and the operation is complete. -/
  | ret (s : State)
  /-- The step ended in a fault or a refusal. -/
  | stop (s : State)
deriving DecidableEq, Repr

/-- A step that is one access and then the software assignments `f`. -/
def Access.andThen {α : Type} (x : Access α) (f : α → State → Micro) : Micro :=
  match x with
  | .done v s => f v s
  | .stop s => .stop s

/-- A CPU operation: what its step `k` does, given the value the step before left. -/
abbrev Body := Nat → Word → State → Micro

/-- The steps of an operation that another one performs as its own steps from `n` on (R371). -/
def Micro.shift (n : Nat) : Micro → Micro
  | .go k t s => .go (k + n) t s
  | .hold => .hold
  | .ret s => .ret s
  | .stop s => .stop s

/-- The CPU agent makes at most `n` steps of the operation `op` from step `k` on (R31, R97). With no step left the state
says where the operation stands. -/
def runSteps (op : Instr) (body : Body) : Nat → Nat → Word → State → State
  | 0, k, t, s => setCur (some ⟨op, k, t⟩) s
  | n + 1, k, t, s =>
    match body k t s with
    | .go k' t' s' => runSteps op body n k' t' (setCur (some ⟨op, k', t'⟩) s')
    | .hold => setCur (some ⟨op, k, t⟩) s
    | .ret s' => finish s'
    | .stop s' => s'

/-- More steps than any operation has: a turn with no bound runs the operation to its end or to a hold (log 16). -/
def maxSteps : Nat := 16

/-- How many steps the CPU agent makes in its present turn. -/
def turnSteps (s : State) : Nat := s.sched.burst.getD maxSteps

/-- The CPU agent's turn at `op`, which is in progress or can start: it makes its steps from where the operation stands. An
agent that is busy with another operation holds (R31, R97). -/
def runCpu (op : Instr) (body : Body) (s : State) : State :=
  match s.cur with
  | none => runSteps op body (turnSteps s) 0 0 s
  | some c => if c.op = op then runSteps op body (turnSteps s) c.k c.tmp s else s

/-- A host operation (R8, R31): refused once a fault is recorded (R362), no step once the run was refused (R360). -/
def runHost (op : Instr) (body : Body) (s : State) : Host.Outcome State Fault Refusal :=
  if s.refused then .refused .runEnded
  else if s.fault.isSome then .next (refuse .halted s)
  else .next (runCpu op body s)

/-- A handler entry (R149, R198, R241): it runs only as the operation in progress, where IRQ_DISPATCH put it (R240). -/
def runHandler (op : Instr) (body : Body) (s : State) : Host.Outcome State Fault Refusal :=
  if s.refused then .refused .runEnded
  else if s.fault.isSome then .fault .halted
  else if s.cur.isSome then .next (runCpu op body s)
  else .next s

/-- A step of an agent other than the host: `f` says what it does. No such step is enabled once a fault is recorded
(R351, R362) or the run was refused (R360). -/
def runAgent (f : State → State) (s : State) : Host.Outcome State Fault Refusal :=
  if s.refused then .refused .runEnded
  else if s.fault.isSome then .fault .halted
  else .next (f s)

/-- The last assignment of a host operation: `emit Ret(op, v)`. -/
def retWith (op : Op) (v : RetVal) (s : State) : Micro := .ret (emit (.ret op v) s)

end Sys2Proof.Machine
end

