-- ==== Sys2Proof/Machine/DmaEngine.lean ====
section
/-! DEFINITION. The DMA engine agent of a channel (41_dma_channel R200 to R204). -/

namespace Sys2Proof.Machine

/-- The request condition of an identity (R202): the engine's handshake, or the environment's draw (log 17). -/
def dmaRequest (p : Pid) (s : State) : Bool :=
  match periphOf p with
  | .engine e =>
    match p.dir with
    | .tx => (s.eng e).clkOn && serTxrdy (s.eng e)
    | .rx => (s.eng e).clkOn && (s.eng e).rxrdy
  | .external _ => s.sched.extReq

/-- The identity that a DMA step would move a byte for: R200's conditions, a fault and the channel mode apart. -/
def dmaStepFor? (c : ChanIx) (s : State) : Option Pid :=
  if s.dmaGate && (s.chan c).ten && decide ((s.chan c).tcr ≠ 0) then
    (decodeSelector (s.chan c).psr).filter (fun p => dmaRequest p s)
  else none

/-- The byte moves of R201, one atomic step: TX reads memory and hands the byte to the peripheral, RX takes it from the
peripheral (`x0` is the environment's byte) and writes memory. -/
def dmaMoveByte (p : Pid) (a : Word) (x0 : Byte) (s : State) : State :=
  match p.dir, periphOf p with
  | .tx, .engine e => s.setEng e { s.eng e with thr := memRead s.mem a.toNat, thrFull := true }
  | .tx, .external _ => emit (.periphTx p (memRead s.mem a.toNat)) s
  | .rx, .engine e =>
    { s.setEng e { s.eng e with rxrdy := false } with mem := memWrite s.mem a.toNat (s.eng e).rhr }
  | .rx, .external _ => { s with mem := memWrite s.mem a.toNat x0 }

/-- The effect of an enabled DMA step (R201): the byte at MAR moves, MAR rises by one modulo 2^32, TCR falls by one. -/
def dmaMove (c : ChanIx) (p : Pid) (x0 : Byte) (s : State) : State :=
  let a := (s.chan c).mar
  if ownsAddr s.bufs (.chan c) a then
    let s1 := dmaMoveByte p a x0 s
    s1.setChan c { s1.chan c with mar := a + 1, tcr := (s1.chan c).tcr - 1 }
  else raise (.dmaOutOfBuffer (.chan c) a) s

/-- EV_DMA_STEP (R200, R201). Not enabled, the channel holds its registers; enabled with a channel mode other than 0, the
step is refused (R48; 92 D17; 93 U20; log 28). -/
def execEvDmaStep (c : ChanIx) (x0 : Byte) (s : State) : Host.Outcome State Fault Refusal :=
  runAgent
    (fun s =>
      match dmaStepFor? c s with
      | none => s
      | some p =>
        if (s.chan c).mr ≠ 0 then refuse .unmodelledMode s else dmaMove c p x0 s) s

end Sys2Proof.Machine
end

