-- ==== Sys2Proof/Machine/DmaChannel.lean ====
section
/-! DEFINITION. The DMA channel manager's operations (41_dma_channel R180 to R197); its interrupt handler stands in
Routing.lean and its engine in DmaEngine.lean. -/

namespace Sys2Proof.Machine

/-- The step of DMA_ENABLE (R180): the counter and the gate only for a channel that was not enabled (R181). -/
def dmaEnableSteps (c : ChanIx) : Body
  | 0, _, s =>
    let s1 :=
      if (s.chan c).enabled then s
      else
        let s' := { s with dmaCount := s.dmaCount + 1 }
        if s'.dmaCount = 1 then setClock .dma true s' else s'
    let s2 := setMask (.dma c) false s1
    retWith .dmaEnable .unit (s2.setChan c { s2.chan c with enabled := true })
  | _, _, _ => .hold

/-- DMA_ENABLE (R180): no channel register is accessed. -/
def execDmaEnable (c : ChanIx) (s : State) : Host.Outcome State Fault Refusal :=
  runHost (.dmaEnable c) (dmaEnableSteps c) s

/-- The step of DMA_DISABLE (R183). -/
def dmaDisableSteps (c : ChanIx) : Body
  | 0, _, s =>
    let s1 :=
      if (s.chan c).enabled then
        let s' := { s with dmaCount := s.dmaCount - 1 }
        let s'' := if s'.dmaCount = 0 then setClock .dma false s' else s'
        s''.setChan c { s''.chan c with enabled := false }
      else s
    retWith .dmaDisable .unit (setMask (.dma c) true s1)
  | _, _, _ => .hold

/-- DMA_DISABLE (R183): the line is masked always; the channel's hardware is not stopped. -/
def execDmaDisable (c : ChanIx) (s : State) : Host.Outcome State Fault Refusal :=
  runHost (.dmaDisable c) (dmaDisableSteps c) s

/-- The steps of programming a channel (R186), up to the assignment of the slot after the last write; `andThen` is what
follows it. The order is PSR, MAR, TCR, IER (D14). -/
def programSteps (c : ChanIx) (pid : Pid) (buf : Buf) (len : Word) (andThen : State → Micro) : Body
  | 0, _, s =>
    if bufOwner s.bufs buf.id ≠ .host then .stop (refuse .bufferNotHostOwned s)
    else
      match (s.chan c).slot with
      | some held => .stop (raise (.bufferOverwrite c held.id buf.id) s)
      | none =>
        if maxTransfer < clampLen len buf then .stop (raise (.lengthTooLarge c (clampLen len buf)) s)
        else
          (regWrite (chanAddr c .psr) (selectorWord pid) (setOwner buf (.chan c) s)).andThen fun _ s => .go 1 0 s
  | 1, _, s => (regWrite (chanAddr c .mar) buf.addr s).andThen fun _ s => .go 2 0 s
  | 2, _, s => (regWrite (chanAddr c .tcr) (BitVec.ofNat 32 (clampLen len buf)) s).andThen fun _ s => .go 3 0 s
  | 3, _, s =>
    (regWrite (chanAddr c .ier) imrTrc s).andThen fun _ s => andThen (s.setChan c { s.chan c with slot := some buf })
  | _, _, _ => .hold

/-- DMA_PROGRAM (R186, R187, R188). -/
def execDmaProgram (c : ChanIx) (pid : Pid) (buf : Buf) (len : Word) (s : State) : Host.Outcome State Fault Refusal :=
  runHost (.dmaProgram c pid buf len) (programSteps c pid buf len (retWith .dmaProgram .unit)) s

/-- The step that sets the start bit (R190). -/
def startStep (op : Op) (c : ChanIx) (s : State) : Micro :=
  (regWrite (chanAddr c .cr) crTen s).andThen fun _ s => retWith op .unit s

/-- DMA_START's one step (R190). -/
def dmaStartSteps (c : ChanIx) : Body
  | 0, _, s => startStep .dmaStart c s
  | _, _, _ => .hold

/-- DMA_START (R190): it returns at once; movement is the DMA engine's. -/
def execDmaStart (c : ChanIx) (s : State) : Host.Outcome State Fault Refusal :=
  runHost (.dmaStart c) (dmaStartSteps c) s

/-- The steps of DMA_DO_TRANSFER (R191): the program part, and then the start part; `op` is the operation that returns. -/
def doTransferSteps (op : Op) (c : ChanIx) (pid : Pid) (buf : Buf) (len : Word) : Body := fun k t s =>
  if k = 4 then startStep op c s else programSteps c pid buf len (fun s => .go 4 0 s) k t s

/-- DMA_DO_TRANSFER (R148, R191): both parts in one CPU operation. -/
def execDmaDoTransfer (c : ChanIx) (pid : Pid) (buf : Buf) (len : Word) (s : State) : Host.Outcome State Fault Refusal :=
  runHost (.dmaDoTransfer c pid buf len) (doTransferSteps .dmaDoTransfer c pid buf len) s

/-- The steps of an abort (R193): IDR, TCR, and then the slot is taken and its buffer given back; `andThen` gets the taken
buffer. TEN is not written. -/
def abortSteps (c : ChanIx) (andThen : Option Buf → State → Micro) : Body
  | 0, _, s => (regWrite (chanAddr c .idr) idrAll s).andThen fun _ s => .go 1 0 s
  | 1, _, s =>
    (regWrite (chanAddr c .tcr) 0 s).andThen fun _ s =>
      let r := (s.chan c).slot
      andThen r (giveBack r (s.setChan c { s.chan c with slot := none }))
  | _, _, _ => .hold

/-- DMA_ABORT (R193, R194). -/
def execDmaAbort (c : ChanIx) (s : State) : Host.Outcome State Fault Refusal :=
  runHost (.dmaAbort c) (abortSteps c (fun r s => retWith .dmaAbort (.buf r) s)) s

/-- The step of DMA_XFER_COUNT (R196): `TCR[15:0]`. -/
def dmaXferCountSteps (c : ChanIx) : Body
  | 0, _, s =>
    (regRead (chanAddr c .tcr) s).andThen fun v s =>
      retWith .dmaXferCount (.word ((v.extractLsb' 0 Config.tcrWidth).zeroExtend 32)) s
  | _, _, _ => .hold

/-- DMA_XFER_COUNT (R196). -/
def execDmaXferCount (c : ChanIx) (s : State) : Host.Outcome State Fault Refusal :=
  runHost (.dmaXferCount c) (dmaXferCountSteps c) s

/-- The step of DMA_SET_CLIENT (R197): a serial engine is registered only by SER_ATTACH_DMA. -/
def dmaSetClientSteps (c : ChanIx) (client : Option DmaClient) : Body
  | 0, _, s =>
    match client with
    | some (.serEngine _) => .stop (refuse .paramOutOfRange s)
    | _ => retWith .dmaSetClient .unit (s.setChan c { s.chan c with client := client })
  | _, _, _ => .hold

/-- DMA_SET_CLIENT (R197). -/
def execDmaSetClient (c : ChanIx) (client : Option DmaClient) (s : State) : Host.Outcome State Fault Refusal :=
  runHost (.dmaSetClient c client) (dmaSetClientSteps c client) s

end Sys2Proof.Machine
end

