-- ==== Sys2Proof/Machine/RegAccess.lean ====
section
/-! DEFINITION. The register access operations (40_register_access R170 to R173). -/

namespace Sys2Proof.Machine

/-- The steps of REG_READ (R170). -/
def regReadSteps (addr : Word) : Body
  | 0, _, s => (regRead addr s).andThen fun v s => retWith .regRead (.word v) s
  | _, _, _ => .hold

/-- REG_READ (R170): one volatile read; its value is returned. -/
def execRegRead (addr : Word) (s : State) : Host.Outcome State Fault Refusal :=
  runHost (.regRead addr) (regReadSteps addr) s

/-- The steps of REG_WRITE (R171). -/
def regWriteSteps (addr value : Word) : Body
  | 0, _, s => (regWrite addr value s).andThen fun _ s => retWith .regWrite .unit s
  | _, _, _ => .hold

/-- REG_WRITE (R171): one volatile write; no software state changes. -/
def execRegWrite (addr value : Word) (s : State) : Host.Outcome State Fault Refusal :=
  runHost (.regWrite addr value) (regWriteSteps addr value) s

/-- The steps of REG_FIELD_GET (R172). -/
def regFieldGetSteps (hi lo : Fin 32) (addr : Word) : Body
  | 0, _, s => (regRead addr s).andThen fun v s => retWith .regFieldGet (.word (fieldGet v hi lo)) s
  | _, _, _ => .hold

/-- REG_FIELD_GET (R172): one read; the bit-field is returned. -/
def execRegFieldGet (hi lo : Fin 32) (addr : Word) (s : State) : Host.Outcome State Fault Refusal :=
  runHost (.regFieldGet hi lo addr) (regFieldGetSteps hi lo addr) s

/-- The steps of FieldSet (R95), a read and then a write, and what is returned after them. -/
def fieldSetSteps (op : Op) (addr : Word) (hi lo : Fin 32) (value : Word) : Body
  | 0, _, s => (regRead addr s).andThen fun v s => .go 1 v s
  | 1, t, s => (regWrite addr (fieldPut t hi lo value) s).andThen fun _ s => retWith op .unit s
  | _, _, _ => .hold

/-- REG_FIELD_SET (R173): a read and a write, between which a hardware agent may step. -/
def execRegFieldSet (hi lo : Fin 32) (addr value : Word) (s : State) : Host.Outcome State Fault Refusal :=
  runHost (.regFieldSet hi lo addr value) (fieldSetSteps .regFieldSet addr hi lo value) s

end Sys2Proof.Machine
end

