-- ==== Sys2Proof/Machine/SerialSpi.lean ====
section
/-! DEFINITION. The SPI operations of a serial engine (44_serial_spi R310 to R332); the receive step of an exchange stands in
SerialIrq.lean. -/

namespace Sys2Proof.Machine

/-- The steps of SER_INIT_SPI (R310): clock, mode, divisor, framing, timeguard (R311). -/
def serInitSpiSteps (e : SerIx) : Body
  | 0, _, s =>
    if engineBusy s e then .stop (raise (.reconfigureWhileBusy e) s)
    else
      let s1 := setClock (.ser e) true s
      (regWrite (serAddr e .brgr) (brgrWord Config.spiCd) (s1.setEng e { s1.eng e with mode := .spi })).andThen
        fun _ s => .go 1 0 s
  | 1, _, s => (regWrite (serAddr e .mr) mrSpi s).andThen fun _ s => .go 2 0 s
  | 2, _, s => (regWrite (serAddr e .ttgr) 0 s).andThen fun _ s => retWith .serInitSpi .unit s
  | _, _, _ => .hold

/-- SER_INIT_SPI (R310): TXEN, RXEN, IMR and chip-select are not touched. -/
def execSerInitSpi (e : SerIx) (s : State) : Host.Outcome State Fault Refusal :=
  runHost (.serInitSpi e) (serInitSpiSteps e) s

/-- Whether the buffers of an exchange are the host's and distinct (R313, R103). -/
def spiBuffersOk (w : Buf) (r : Option Buf) (s : State) : Bool :=
  decide (bufOwner s.bufs w.id = .host) &&
    r.all (fun rb => decide (bufOwner s.bufs rb.id = .host) && decide (rb.id ≠ w.id))

/-- Whether a request's length is valid (R314). -/
def spiLengthOk (w : Buf) (r : Option Buf) (len : Word) : Bool :=
  decide (1 ≤ len.toNat) && decide (len.toNat ≤ w.cap) && r.all (fun rb => decide (len.toNat ≤ rb.cap))

/-- Both buffers of an exchange change owner. -/
def setOwners (w : Buf) (r : Option Buf) (o : Owner) (s : State) : State :=
  match r with
  | some rb => setOwner rb o (setOwner w o s)
  | none => setOwner w o s

/-- The steps of SER_READ_WRITE_BYTES (R313): IER, CR with both enables, CR with FCS, the first byte's read, THR; then the
context is stored. -/
def serReadWriteBytesSteps (e : SerIx) (w : Buf) (r : Option Buf) (len : Word) : Body
  | 0, _, s =>
    if !spiBuffersOk w r s then .stop (refuse .bufferNotHostOwned s)
    else if (s.eng e).mode ≠ .spi then .stop (raise (.wrongMode e .serReadWriteBytes) s)
    else if (s.eng e).ctx.isSome then .stop (raise (.transferOutstanding e) s)
    else if !spiLengthOk w r len then .stop (raise (.spiLengthInvalid e len) s)
    else (regWrite (serAddr e .ier) siRxrdy (setOwners w r (.ser e) s)).andThen fun _ s => .go 1 0 s
  | 1, _, s => (regWrite (serAddr e .cr) (crTxen ||| crRxen) s).andThen fun _ s => .go 2 0 s
  | 2, _, s => (regWrite (serAddr e .cr) crFcs s).andThen fun _ s => .go 3 0 s
  | 3, _, s => (byteRead (.ser e) w.addr s).andThen fun b s => .go 4 (b.zeroExtend 32) s
  | 4, t, s =>
    (regWrite (serAddr e .thr) t s).andThen fun _ s =>
      retWith .serReadWriteBytes .unit (s.setEng e { s.eng e with ctx := some ⟨w, r, len.toNat, 0⟩ })
  | _, _, _ => .hold

/-- SER_READ_WRITE_BYTES (R313): it starts the exchange and returns; the exchange is the shifter's and the handler's. -/
def execSerReadWriteBytes (e : SerIx) (w : Buf) (r : Option Buf) (len : Word) (s : State) :
    Host.Outcome State Fault Refusal :=
  runHost (.serReadWriteBytes e w r len) (serReadWriteBytesSteps e w r len) s

/-- SPI_SET_CLOCK (R325): a read-modify-write of CPOL, bit 16 of MR, whatever the mode. -/
def execSpiSetClock (e : SerIx) (v : Bool) (s : State) : Host.Outcome State Fault Refusal :=
  runHost (.spiSetClock e v) (fieldSetSteps .spiSetClock (serAddr e .mr) 16 16 (bitWord v)) s

/-- The one step of an accessor that returns one bit of MR. -/
def mrBitSteps (op : Op) (e : SerIx) (i : Nat) : Body
  | 0, _, s => (regRead (serAddr e .mr) s).andThen fun v s => retWith op (.word (bitWord (v.getLsbD i))) s
  | _, _, _ => .hold

/-- SPI_GET_CLOCK (R326). -/
def execSpiGetClock (e : SerIx) (s : State) : Host.Outcome State Fault Refusal :=
  runHost (.spiGetClock e) (mrBitSteps .spiGetClock e 16) s

/-- SPI_SET_PHASE (R327): a read-modify-write of CPHA, bit 8 of MR, whatever the mode. -/
def execSpiSetPhase (e : SerIx) (v : Bool) (s : State) : Host.Outcome State Fault Refusal :=
  runHost (.spiSetPhase e v) (fieldSetSteps .spiSetPhase (serAddr e .mr) 8 8 (bitWord v)) s

/-- SPI_GET_PHASE (R328). -/
def execSpiGetPhase (e : SerIx) (s : State) : Host.Outcome State Fault Refusal :=
  runHost (.spiGetPhase e) (mrBitSteps .spiGetPhase e 8) s

/-- The one step of an operation that only returns a fixed value. -/
def fixedSteps (op : Op) (v : RetVal) : Body
  | 0, _, s => retWith op v s
  | _, _, _ => .hold

/-- SPI_SET_RATE (R329): the requested rate is ignored. -/
def execSpiSetRate (e : SerIx) (rate : Word) (s : State) : Host.Outcome State Fault Refusal :=
  runHost (.spiSetRate e rate) (fixedSteps .spiSetRate (.word Config.spiRateValue)) s

/-- SPI_GET_RATE (R330). -/
def execSpiGetRate (e : SerIx) (s : State) : Host.Outcome State Fault Refusal :=
  runHost (.spiGetRate e) (fixedSteps .spiGetRate (.word Config.spiRateValue)) s

/-- SPI_SET_CHIP_SELECT (R331): no state but the event history changes. -/
def execSpiSetChipSelect (e : SerIx) (cs : Byte) (s : State) : Host.Outcome State Fault Refusal :=
  runHost (.spiSetChipSelect e cs) (fixedSteps .spiSetChipSelect .unit) s

/-- SPI_GET_CHIP_SELECT (R332). -/
def execSpiGetChipSelect (e : SerIx) (s : State) : Host.Outcome State Fault Refusal :=
  runHost (.spiGetChipSelect e) (fixedSteps .spiGetChipSelect (.word (Config.spiCsValue.zeroExtend 32))) s

end Sys2Proof.Machine
end

