-- ==== Sys2Proof/Machine/SerialIrq.lean ====
section
/-! DEFINITION. The serial engine's handlers: its interrupt entry with the UART receive step and the SPI step (R265, R266,
R320, R321), and its DMA-completion handler (R267). -/

namespace Sys2Proof.Machine

/-- The UART receive step (R266). -/
def uartReceive (e : SerIx) (x : Byte) (s : State) : Micro :=
  match (s.eng e).client with
  | .uartClient _ => .ret (emit (.uartByte e x) s)
  | .noClient => .ret s
  | .spiClient _ => .stop (raise (.clientShapeMismatch e) s)

/-- `complete(s, w, r, len)` (R321), once the context is gone. -/
def spiComplete (e : SerIx) (x : SpiCtx) (s : State) : Micro :=
  let s1 := setOwners x.w x.r .host s
  match (s1.eng e).client with
  | .spiClient _ => .ret (emit (.spiDone e x.w x.r x.len) s1)
  | .noClient => .stop (raise (.noClient e x.w.id) s1)
  | .uartClient _ => .stop (raise (.clientShapeMismatch e) s1)

/-- What the SPI step does after the received byte is stored or discarded (R320): at the last index it goes on to the
deassertion of chip-select (step 3); else it advances the cursor and goes on to the next byte (step 5). -/
def spiAdvance (e : SerIx) (x : SpiCtx) (s : State) : Micro :=
  if x.cursor = x.len - 1 then .go 3 0 s
  else .go 5 0 (s.setEng e { s.eng e with ctx := some { x with cursor := x.cursor + 1 } })

/-- What follows the RHR read of SER_HANDLE_IRQ (R265): the receive step of the mode. -/
def afterRhr (e : SerIx) (v : Word) (s : State) : Micro :=
  match (s.eng e).mode with
  | .uart => uartReceive e (v.extractLsb' 0 8) s
  | .unused => .ret s
  | .spi =>
    match (s.eng e).ctx with
    | none => .ret s
    | some x => if x.r.isSome then .go 2 v s else spiAdvance e x s

/-- The steps of SER_HANDLE_IRQ (R265, R320): 0 reads CSR, 1 reads RHR; in an SPI exchange 2 stores the byte, 3 releases
chip-select, 4 disables both directions and completes, 5 reads the next byte and 6 writes it to THR. -/
def serHandleIrqSteps (e : SerIx) : Body
  | 0, _, s => (regRead (serAddr e .csr) s).andThen fun t s => if t.getLsbD 0 then .go 1 0 s else .ret s
  | 1, _, s => (regRead (serAddr e .rhr) s).andThen fun v s => afterRhr e v s
  | 2, t, s =>
    match (s.eng e).ctx with
    | none => .ret s
    | some x =>
      match x.r with
      | none => spiAdvance e x s
      | some rb =>
        (byteWrite (.ser e) (rb.addr + BitVec.ofNat 32 x.cursor) (t.extractLsb' 0 8) s).andThen fun _ s =>
          spiAdvance e x s
  | 3, _, s => (regWrite (serAddr e .cr) crRcs s).andThen fun _ s => .go 4 0 s
  | 4, _, s =>
    (regWrite (serAddr e .cr) (crTxdis ||| crRxdis) s).andThen fun _ s =>
      match (s.eng e).ctx with
      | none => .ret s
      | some x => spiComplete e x (s.setEng e { s.eng e with ctx := none })
  | 5, _, s =>
    match (s.eng e).ctx with
    | none => .ret s
    | some x =>
      (byteRead (.ser e) (x.w.addr + BitVec.ofNat 32 x.cursor) s).andThen fun b s => .go 6 (b.zeroExtend 32) s
  | 6, t, s => (regWrite (serAddr e .thr) t s).andThen fun _ s => .ret s
  | _, _, _ => .hold

/-- SER_HANDLE_IRQ (R265). -/
def execSerHandleIrq (e : SerIx) (s : State) : Host.Outcome State Fault Refusal :=
  runHandler (.serHandleIrq e) (serHandleIrqSteps e) s

/-- What SER_DMA_DONE does with the buffer the abort steps took (R267). -/
def deliverWriteDone (e : SerIx) (r : Option Buf) (s : State) : Micro :=
  match r with
  | none => .ret s
  | some b =>
    match (s.eng e).client with
    | .uartClient _ => .ret (emit (.uartWriteDone e b) s)
    | .noClient => .stop (raise (.noClient e b.id) s)
    | .spiClient _ => .stop (raise (.clientShapeMismatch e) s)

/-- The steps of SER_DMA_DONE (R267): the abort steps on the attached channel; the identity is not inspected. R269 makes the
attachment present whenever DMA_HANDLE_IRQ calls it; elsewhere R267 gives no effect (log 15). -/
def serDmaDoneSteps (e : SerIx) : Body := fun k t s =>
  match (s.eng e).dma with
  | some (c, _) => abortSteps c (deliverWriteDone e) k t s
  | none => .stop (refuse .noBinding s)

/-- SER_DMA_DONE (R267). -/
def execSerDmaDone (e : SerIx) (pid : Pid) (s : State) : Host.Outcome State Fault Refusal :=
  runHandler (.serDmaDone e pid) (serDmaDoneSteps e) s

end Sys2Proof.Machine
end

