-- ==== Sys2Proof/Machine/Routing.lean ====
section
/-! DEFINITION. Interrupt dispatch, the channel's interrupt handler and the fault trap (42_binding_and_routing R240 to R244;
41_dma_channel R198; 60_exceptions R372). -/

namespace Sys2Proof.Machine

/-- The callback step of DMA_HANDLE_IRQ (R198), with the identity its selector decoded to. For a serial engine the steps of
SER_DMA_DONE follow, as the same CPU operation (R371). -/
def dmaCallback (c : ChanIx) (pid : Pid) (s : State) : Micro :=
  match (s.chan c).client with
  | none => .ret s
  | some (.ext _) => .ret (emit (.dmaDone c pid) s)
  | some (.serEngine _) => .go 1 0 s

/-- The steps of DMA_HANDLE_IRQ (R198): the selector's read and its decoding, then the steps of SER_DMA_DONE for a channel
of a serial engine. -/
def dmaHandleIrqSteps (c : ChanIx) : Body
  | 0, _, s =>
    (regRead (chanAddr c .psr) s).andThen fun sel s =>
      match decodeSelector sel with
      | none => .stop (raise (.unmappedSelector c sel) s)
      | some pid => dmaCallback c pid s
  | k + 1, t, s =>
    match (s.chan c).client with
    | some (.serEngine e) => (serDmaDoneSteps e k t s).shift 1
    | _ => .ret s

/-- DMA_HANDLE_IRQ (R198): it does not clear IMR or the slot. -/
def execDmaHandleIrq (c : ChanIx) (s : State) : Host.Outcome State Fault Refusal :=
  runHandler (.dmaHandleIrq c) (dmaHandleIrqSteps c) s

/-- When IRQ_DISPATCH is enabled (R240), a fault and a refusal apart: the CPU agent is between operations, and the line is
asserted and not masked. -/
def dispatchEnabled (l : Line) (s : State) : Bool := s.cur.isNone && lineAsserted s l && !lineMasked s l

/-- IRQ_DISPATCH (R240, R369): trap entry. Not enabled, it leaves everything as it is (log 11). -/
def execIrqDispatch (l : Line) (s : State) : Host.Outcome State Fault Refusal :=
  runAgent (fun s => if dispatchEnabled l s then trapEntry l s else s) s

/-- EV_HARD_FAULT (R372): the fault trap records a drawn report, at any point of an operation. -/
def execEvHardFault (s : State) : Host.Outcome State Fault Refusal :=
  runAgent (fun s => raise (.hardFault (Config.drawReport s.sched.draws)) (s.advance 1)) s

/-- The front-end's boot step (R412): every serial line is unmasked. -/
def boot (s : State) : State :=
  { s with serMasked := Vector.replicate Config.nSer false, sched := { s.sched with booted := true } }

end Sys2Proof.Machine
end

