-- ==== Sys2Proof/Machine/SerialUart.lean ====
section
/-! DEFINITION. The operations of a serial engine that belong to the UART protocol or to both protocols (43_serial_uart R260 to
R273), but for its interrupt entry (SerialIrq.lean) and its shifter (Shifter.lean). -/

namespace Sys2Proof.Machine

/-- The steps of SER_CONFIGURE_UART (R260, R262): the checks come before every effect; then the writes of BRGR, MR, IER. -/
def serConfigureUartSteps (e : SerIx) (p : UartParams) : Body
  | 0, _, s =>
    if engineBusy s e then .stop (raise (.reconfigureWhileBusy e) s)
    else
      match baudDivisor? p.baud with
      | none => .stop (raise (.baudInvalid e p.baud) s)
      | some cd => (regWrite (serAddr e .brgr) (brgrWord cd) (setClock (.ser e) true s)).andThen fun _ s => .go 1 0 s
  | 1, _, s =>
    (regWrite (serAddr e .mr) (mrUart p) s).andThen fun _ s => .go 2 0 (s.setEng e { s.eng e with mode := .uart })
  | 2, _, s => (regWrite (serAddr e .ier) siRxrdy s).andThen fun _ s => retWith .serConfigureUart .unit s
  | _, _, _ => .hold

/-- SER_CONFIGURE_UART (R260): the transmitter and the receiver stay as they are (R261). -/
def execSerConfigureUart (e : SerIx) (p : UartParams) (s : State) : Host.Outcome State Fault Refusal :=
  runHost (.serConfigureUart e p) (serConfigureUartSteps e p) s

/-- The steps of SER_SEND_BYTE (R263): the CSR poll, which holds while TXRDY is 0, and then the THR write. -/
def serSendByteSteps (e : SerIx) (b : Byte) : Body
  | 0, _, s =>
    if (s.eng e).mode ≠ .uart then .stop (raise (.wrongMode e .serSendByte) s)
    else (regRead (serAddr e .csr) s).andThen fun t s => if t.getLsbD 1 then .go 1 0 s else .hold
  | 1, _, s => (regWrite (serAddr e .thr) (b.zeroExtend 32) s).andThen fun _ s => retWith .serSendByte .unit s
  | _, _, _ => .hold

/-- SER_SEND_BYTE (R263): the busy-wait occupies the CPU agent; with TXEN false it never ends. -/
def execSerSendByte (e : SerIx) (b : Byte) (s : State) : Host.Outcome State Fault Refusal :=
  runHost (.serSendByte e b) (serSendByteSteps e b) s

/-- The checks of SER_SEND_BYTES before it hands over the buffer (R264), in the spec's order: the state they end in, or the
attached channel and its identity. -/
def sendBytesCheck (e : SerIx) (buf : Buf) (s : State) : State ⊕ (ChanIx × Pid) :=
  if bufOwner s.bufs buf.id ≠ .host then .inl (refuse .bufferNotHostOwned s)
  else if (s.eng e).mode ≠ .uart then .inl (raise (.wrongMode e .serSendBytes) s)
  else
    match (s.eng e).dma with
    | none => .inl (raise (.noDmaChannel e) s)
    | some (c, p) => if (s.chan c).slot.isSome then .inl (raise (.transferOutstanding e) s) else .inr (c, p)

/-- The steps of SER_SEND_BYTES (R264): the checks, and then the steps of DMA_DO_TRANSFER on the attached channel. -/
def serSendBytesSteps (e : SerIx) (buf : Buf) (len : Word) : Body
  | 0, t, s =>
    match sendBytesCheck e buf s with
    | .inl s' => .stop s'
    | .inr (c, p) => doTransferSteps .serSendBytes c p buf len 0 t s
  | k + 1, t, s =>
    match (s.eng e).dma with
    | some (c, p) => doTransferSteps .serSendBytes c p buf len (k + 1) t s
    | none => .stop (refuse .noBinding s)

/-- SER_SEND_BYTES (R264): the buffer and its length go to the attached channel's DMA_DO_TRANSFER. -/
def execSerSendBytes (e : SerIx) (buf : Buf) (len : Word) (s : State) : Host.Outcome State Fault Refusal :=
  runHost (.serSendBytes e buf len) (serSendBytesSteps e buf len) s

/-- SER_SET_CLIENT (R268). -/
def serSetClientSteps (e : SerIx) (client : SerClient) : Body
  | 0, _, s => retWith .serSetClient .unit (s.setEng e { s.eng e with client := client })
  | _, _, _ => .hold

/-- SER_SET_CLIENT (R268): the client is replaced, also while the engine is busy. -/
def execSerSetClient (e : SerIx) (client : SerClient) (s : State) : Host.Outcome State Fault Refusal :=
  runHost (.serSetClient e client) (serSetClientSteps e client) s

/-- The step of SER_ATTACH_DMA (R269). -/
def serAttachDmaSteps (e : SerIx) (p : Pid) (c : ChanIx) : Body
  | 0, _, s =>
    if (s.eng e).dma.isSome ∨ (s.chan c).client.isSome ∨ p.dir ≠ .tx then .stop (refuse .paramOutOfRange s)
    else
      let s1 := s.setEng e { s.eng e with dma := some (c, p) }
      retWith .serAttachDma .unit (s1.setChan c { s1.chan c with client := some (.serEngine e) })
  | _, _, _ => .hold

/-- SER_ATTACH_DMA (R269): once per engine, to a channel with no client, with a TX identity. -/
def execSerAttachDma (e : SerIx) (p : Pid) (c : ChanIx) (s : State) : Host.Outcome State Fault Refusal :=
  runHost (.serAttachDma e p c) (serAttachDmaSteps e p c) s

/-- The one step of an operation that writes one command word to serial CR and returns unit. -/
def crCommandSteps (op : Op) (e : SerIx) (v : Word) : Body
  | 0, _, s => (regWrite (serAddr e .cr) v s).andThen fun _ s => retWith op .unit s
  | _, _, _ => .hold

/-- SER_ENABLE_TX (R270). -/
def execSerEnableTx (e : SerIx) (s : State) : Host.Outcome State Fault Refusal :=
  runHost (.serEnableTx e) (crCommandSteps .serEnableTx e crTxen) s

/-- SER_DISABLE_TX (R271): a byte already in the shifter still completes. -/
def execSerDisableTx (e : SerIx) (s : State) : Host.Outcome State Fault Refusal :=
  runHost (.serDisableTx e) (crCommandSteps .serDisableTx e crTxdis) s

/-- SER_ENABLE_RX (R272). -/
def execSerEnableRx (e : SerIx) (s : State) : Host.Outcome State Fault Refusal :=
  runHost (.serEnableRx e) (crCommandSteps .serEnableRx e crRxen) s

/-- SER_DISABLE_RX (R273): RXRDY and RHR are kept. -/
def execSerDisableRx (e : SerIx) (s : State) : Host.Outcome State Fault Refusal :=
  runHost (.serDisableRx e) (crCommandSteps .serDisableRx e crRxdis) s

end Sys2Proof.Machine
end

