-- ==== Sys2Proof/Machine/Shifter.lean ====
section
/-! DEFINITION. The shifter agent of a serial engine (43_serial_uart R280 to R285). -/

namespace Sys2Proof.Machine

/-- A shifter step (R280): with the clock on and `ready`, it is made in a modelled mode and refused in any other; else the
agent holds. -/
def shifterStep (e : SerIx) (ready : Bool) (f : State → State) (s : State) : State :=
  if (s.eng e).clkOn && ready then
    (if serModeField (s.eng e) = 0x0#4 ∨ serModeField (s.eng e) = 0xE#4 then f s else refuse .unmodelledMode s)
  else s

/-- The effect of EV_SER_LOAD (R281): the holding byte moves into the shift register. -/
def serLoad (e : SerIx) (s : State) : State :=
  s.setEng e { s.eng e with shift := some (s.eng e).thr, thrFull := false }

/-- R281's condition for EV_SER_LOAD: a pending byte, an empty shift register and the transmitter on. -/
def loadReady (x : Ser) : Bool := x.thrFull && x.shift.isNone && x.txen

/-- EV_SER_LOAD (R281). -/
def execEvSerLoad (e : SerIx) (s : State) : Host.Outcome State Fault Refusal :=
  runAgent (fun s => shifterStep e (loadReady (s.eng e)) (serLoad e) s) s

/-- A byte comes in (R283, R284): it overwrites RHR, and an unread one is lost with OVRE set (R285). -/
def serArrive (e : SerIx) (x : Byte) (s : State) : State :=
  s.setEng e { s.eng e with rhr := x, rxrdy := true, ovre := (s.eng e).ovre || (s.eng e).rxrdy }

/-- The effect of EV_SER_SHIFT (R283): the byte leaves; an SPI master with the receiver on takes `m` in. -/
def serShift (e : SerIx) (m : Byte) (s : State) : State :=
  match (s.eng e).shift with
  | none => s
  | some x =>
    let s1 := (emit (.txLine e x) s).setEng e { s.eng e with shift := none }
    if serModeField (s.eng e) = 0xE#4 ∧ (s.eng e).rxen then serArrive e m s1 else s1

/-- EV_SER_SHIFT (R283, R322). -/
def execEvSerShift (e : SerIx) (m : Byte) (s : State) : Host.Outcome State Fault Refusal :=
  runAgent (fun s => shifterStep e (s.eng e).shift.isSome (serShift e m) s) s

/-- EV_SER_RX_ARRIVE (R284): a byte arrives in asynchronous mode; in SPI mode the step is not enabled. -/
def execEvSerRxArrive (e : SerIx) (x : Byte) (s : State) : Host.Outcome State Fault Refusal :=
  runAgent (fun s =>
    shifterStep e ((s.eng e).rxen && decide (serModeField (s.eng e) ≠ 0xE#4)) (serArrive e x) s) s

end Sys2Proof.Machine
end

