-- ==== Sys2Proof/Machine/Dispatch.lean ====
section
/-! DEFINITION. The dispatch: one arm per constructor of Instr, each one direct call of its meaning. -/

namespace Sys2Proof.Machine

def exec (i : Instr) (s : State) : Host.Outcome State Fault Refusal :=
  match i with
  | .regRead addr => Sys2Proof.Machine.execRegRead addr s
  | .regWrite addr value => Sys2Proof.Machine.execRegWrite addr value s
  | .regFieldGet hi lo addr => Sys2Proof.Machine.execRegFieldGet hi lo addr s
  | .regFieldSet hi lo addr value => Sys2Proof.Machine.execRegFieldSet hi lo addr value s
  | .dmaEnable c => Sys2Proof.Machine.execDmaEnable c s
  | .dmaDisable c => Sys2Proof.Machine.execDmaDisable c s
  | .dmaProgram c pid buf len => Sys2Proof.Machine.execDmaProgram c pid buf len s
  | .dmaStart c => Sys2Proof.Machine.execDmaStart c s
  | .dmaDoTransfer c pid buf len => Sys2Proof.Machine.execDmaDoTransfer c pid buf len s
  | .dmaAbort c => Sys2Proof.Machine.execDmaAbort c s
  | .dmaHandleIrq c => Sys2Proof.Machine.execDmaHandleIrq c s
  | .dmaXferCount c => Sys2Proof.Machine.execDmaXferCount c s
  | .dmaSetClient c client => Sys2Proof.Machine.execDmaSetClient c client s
  | .serConfigureUart e params => Sys2Proof.Machine.execSerConfigureUart e params s
  | .serSendByte e b => Sys2Proof.Machine.execSerSendByte e b s
  | .serSendBytes e buf len => Sys2Proof.Machine.execSerSendBytes e buf len s
  | .serInitSpi e => Sys2Proof.Machine.execSerInitSpi e s
  | .serReadWriteBytes e w r len => Sys2Proof.Machine.execSerReadWriteBytes e w r len s
  | .serHandleIrq e => Sys2Proof.Machine.execSerHandleIrq e s
  | .serDmaDone e pid => Sys2Proof.Machine.execSerDmaDone e pid s
  | .serSetClient e client => Sys2Proof.Machine.execSerSetClient e client s
  | .serAttachDma e pid c => Sys2Proof.Machine.execSerAttachDma e pid c s
  | .serEnableTx e => Sys2Proof.Machine.execSerEnableTx e s
  | .serDisableTx e => Sys2Proof.Machine.execSerDisableTx e s
  | .serEnableRx e => Sys2Proof.Machine.execSerEnableRx e s
  | .serDisableRx e => Sys2Proof.Machine.execSerDisableRx e s
  | .spiSetClock e v => Sys2Proof.Machine.execSpiSetClock e v s
  | .spiGetClock e => Sys2Proof.Machine.execSpiGetClock e s
  | .spiSetPhase e v => Sys2Proof.Machine.execSpiSetPhase e v s
  | .spiGetPhase e => Sys2Proof.Machine.execSpiGetPhase e s
  | .spiSetRate e rate => Sys2Proof.Machine.execSpiSetRate e rate s
  | .spiGetRate e => Sys2Proof.Machine.execSpiGetRate e s
  | .spiSetChipSelect e cs => Sys2Proof.Machine.execSpiSetChipSelect e cs s
  | .spiGetChipSelect e => Sys2Proof.Machine.execSpiGetChipSelect e s
  | .irqDispatch l => Sys2Proof.Machine.execIrqDispatch l s
  | .evDmaStep c x0 => Sys2Proof.Machine.execEvDmaStep c x0 s
  | .evSerLoad e => Sys2Proof.Machine.execEvSerLoad e s
  | .evSerShift e m => Sys2Proof.Machine.execEvSerShift e m s
  | .evSerRxArrive e x => Sys2Proof.Machine.execEvSerRxArrive e x s
  | .evHardFault => Sys2Proof.Machine.execEvHardFault s

end Sys2Proof.Machine
end

