-- ==== Sys2Proof/Machine/Turns.lean ====
section
/-! DEFINITION. Whose turn it is (00_scope R7, R21; 20_memory R97, R102; 42 R243): the schedule's next turn, the fetch of its
words, and the placing of a word where the next step fetches it (log 1, log 19, log 20). -/

namespace Sys2Proof.Machine

/-- The state with its schedule's next turn taken off. -/
def State.popTurn (s : State) (rest : List Turn) : State := { s with sched := { s.sched with input := rest } }

/-- The state with the CPU agent's present turn bounded. -/
def State.withBurst (s : State) (b : Option Nat) : State := { s with sched := { s.sched with burst := b } }

/-- The state with the environment's draw of an external request. -/
def State.withExtReq (s : State) (q : Bool) : State := { s with sched := { s.sched with extReq := q } }

/-- The host issues the operation that a list of words holds: a word list that is no operation is refused for the decoder's
reason (R144, R145), a word that is not the host's to issue is refused by R149, any other operation is executed. No rule says
which reason a handler's or an agent's word gets that the decoder refuses as well: here the decoder's (DESIGN CHOICE, log 32). -/
def issue (words : List Word) (s : State) : Host.Outcome State Fault Refusal :=
  match decode words with
  | .error r => .next (refuse r s)
  | .ok (i, _) => if i.op.hostMayIssue then exec i s else .next (refuse .handlerEntryFromHost s)

/-- An agent other than the host takes the step that a list of words holds. Such an agent has no host operation to take: its
turn passes (log 20). -/
def agentStep (words : List Word) (s : State) : Host.Outcome State Fault Refusal :=
  match decode words with
  | .error r => .next (refuse r s)
  | .ok (i, _) => if i.op.hostMayIssue then .next s else exec i s

/-- A step once a fault is recorded: an operation the host issues is refused HALTED (R362); nothing else moves (R351). -/
def haltedStep (s : State) : Host.Outcome State Fault Refusal :=
  match s.sched.input with
  | .host _ _ :: rest => .next (refuse .halted (s.popTurn rest))
  | _ => .fault .halted

/-- The CPU agent's enabled steps, the host issuing nothing further: the operation in progress goes on, or a line that is
asserted and not masked is dispatched (R31, R240, R244). -/
def cpuSteps (s : State) : List Instr :=
  match s.cur with
  | some c => [c.op]
  | none =>
    (((List.finRange Config.nCh).map Line.dma ++ (List.finRange Config.nSer).map Line.ser).filter
      (fun l => dispatchEnabled l s)).map Instr.irqDispatch

/-- The enabled steps of the DMA engine agents, the environment requesting nothing further (R200, R202). Such a step moves a
byte of a serial engine, and does not look at its drawn byte. -/
def dmaAgentSteps (s : State) : List Instr :=
  ((List.finRange Config.nCh).filter (fun c => (dmaStepFor? c (s.withExtReq false)).isSome)).map
    (fun c => .evDmaStep c (Config.drawByte s.sched.draws))

/-- The enabled steps of the shifter agents, no further byte arriving (R280, R281, R283). The byte that an SPI master shifts
in is a draw. -/
def shifterAgentSteps (s : State) : List Instr :=
  ((List.finRange Config.nSer).filter (fun e => (s.eng e).clkOn && loadReady (s.eng e))).map .evSerLoad ++
    ((List.finRange Config.nSer).filter (fun e => (s.eng e).clkOn && (s.eng e).shift.isSome)).map
      (fun e => .evSerShift e (Config.drawByte s.sched.draws))

/-- The steps that are enabled when the host and the environment give nothing further (R441; log 30). A step that is enabled
but for a mode that is not modelled is among them: it is refused when it is taken (R200, R280). -/
def freeSteps (s : State) : List Instr := cpuSteps s ++ dmaAgentSteps s ++ shifterAgentSteps s

/-- The `n`-th element of a list, counted round and round; none of an empty list. -/
def pickRound {α : Type} (n : Nat) : List α → Option α
  | [] => none
  | [x] => some x
  | x :: y :: l => (x :: y :: l)[n % (l.length + 2)]?

/-- The state in which a step is taken that no turn of the schedule names: the environment requests nothing, the CPU agent's
turn is not cut short, and a draw is used up. -/
def State.unscheduled (s : State) : State := ((s.withBurst none).withExtReq false).advance 1

/-- A step when the schedule gives no further turn: one of the enabled steps is taken, by a free choice (R243), without end
where a line stays asserted (R244, R425); with none enabled the run ends by quiescence (R441). -/
def freeStep (s : State) : Host.Outcome State Fault Refusal :=
  match pickRound (Config.drawChoice s.sched.draws) (freeSteps s) with
  | none => .refused .quiescent
  | some i => exec i s.unscheduled

/-- The next turn of a running machine. A host operation waits while another operation is in progress: the CPU agent goes on
with that one, and the turn stays (R31, R240). With no turn left the agents take the steps that are enabled. -/
def takeTurn (s : State) : Host.Outcome State Fault Refusal :=
  match s.sched.input, s.cur with
  | [], _ => freeStep s
  | .cpu b :: rest, some c => exec c.op ((s.popTurn rest).withBurst b)
  | .cpu b :: rest, none => .next ((s.popTurn rest).withBurst b)
  | .host _ _ :: _, some c => exec c.op (s.withBurst none)
  | .host ws b :: rest, none => issue ws ((s.popTurn rest).withBurst b)
  | .agent ws q :: rest, _ => agentStep ws ((s.popTurn rest).withExtReq q)

/-- One step of the machine: the front-end's boot step comes first (R410, R412; log 18); a refused run makes no step
(R360); a halted machine only refuses (R362); else the next turn is taken. -/
def stepOnce (s : State) : Host.Outcome State Fault Refusal :=
  if !s.sched.booted then .next (boot s)
  else if s.refused then .refused .runEnded
  else if s.fault.isSome then haltedStep s
  else takeTurn s

/-- The schedule with one turn put in front. -/
def State.pushTurn (s : State) (t : Turn) : State := { s with sched := { s.sched with input := t :: s.sched.input } }

/-- The words of one instruction placed where the next step fetches them, with all that this takes (log 1): the boot step
done; the CPU agent between operations for a host operation, and at the handler's entry for a handler (as IRQ_DISPATCH
leaves it); the turn in front of the schedule, its agent the one whose step the word is. -/
def placeWords (s : State) (words : List Word) : State :=
  let s1 := if s.sched.booted then s else boot s
  match decode words with
  | .error _ => { s1 with cur := none }.pushTurn (.host words none)
  | .ok (i, _) =>
    if i.op.hostMayIssue then { s1 with cur := none }.pushTurn (.host words none)
    else
      match i.op with
      | .dmaHandleIrq | .serHandleIrq | .serDmaDone =>
        ({ s1 with cur := some ⟨i, 0, 0⟩ }.withBurst none).pushTurn (.agent words true)
      | .irqDispatch => { s1 with cur := none }.pushTurn (.agent words true)
      | _ => s1.pushTurn (.agent words true)

end Sys2Proof.Machine
end

