-- ==== Sys2Proof/Machine/Step.lean ====
section
/-! DEFINITION. One step of the machine, and the placing of an instruction where the next step fetches it. -/

namespace Sys2Proof.Machine

/-- One step of the machine, by the next turn of its schedule. -/
def step (s : State) : Host.Outcome State Fault Refusal := stepOnce s

/-- `s` with the opcode-table word `w` and side operands of zeros placed where `step` fetches its next instruction (log 1). -/
def State.withFetchWord (s : State) (nbits w : Nat) : State := placeWords s (paddedWords (w % 2 ^ nbits))

end Sys2Proof.Machine
end

