-- ==== Sys2Proof/Safety.lean ====
section
/-! DEFINITION. What counts as a safe run, in the terms that claims use: the conditions under which an operation runs, the
launch premises (70 R411), and the invariants the spec states (10_state R65, R66). -/

namespace Sys2Proof.Machine

/-- The run is inside the domain the spec defines, and no fault is recorded. -/
abbrev State.Running (s : State) : Prop := s.refused = false ∧ s.fault = none

/-- A host operation can start, and its turn is not cut short: the CPU agent runs it to its end. -/
abbrev State.Ready (s : State) : Prop := s.refused = false ∧ s.fault = none ∧ s.cur = none ∧ s.sched.burst = none

/-- IRQ_DISPATCH has put the handler `i` in progress, and its turn is not cut short. -/
abbrev State.AtEntry (s : State) (i : Instr) : Prop :=
  s.refused = false ∧ s.fault = none ∧ s.cur = some ⟨i, 0, 0⟩ ∧ s.sched.burst = none

/-- The turns of the CPU agent are not cut short. -/
abbrev State.Unbounded (s : State) : Prop := s.sched.burst = none

/-- How many channels are enabled. -/
def enabledCount (s : State) : Nat := (List.finRange Config.nCh).countP (fun c => (s.chan c).enabled)

/-- The counter and gate invariant of R65, with the line mask of a channel that is not enabled (R49, R180, R183). -/
def ClockInv (s : State) : Prop :=
  s.dmaCount = enabledCount s ∧ s.dmaGate = decide (0 < s.dmaCount) ∧
    ∀ c, s.dmaMasked.get c = !(s.chan c).enabled

/-- The canonical form of memory and of the buffer table. -/
def DataInv (s : State) : Prop := Memory.wf s.mem = true ∧ Buffers.wf s.bufs = true

/-- The slot invariant of R65: a buffer in a channel's slot is owned by that channel. -/
def SlotInv (s : State) : Prop := ∀ c b, (s.chan c).slot = some b → bufOwner s.bufs b.id = .chan c

/-- The exchange invariant of R66: the buffers of an exchange in progress are the engine's, and the cursor stays inside
them. -/
def ExchangeInv (s : State) : Prop :=
  ∀ e x, (s.eng e).ctx = some x →
    bufOwner s.bufs x.w.id = .ser e ∧ x.cursor < x.len ∧ x.len ≤ x.w.cap ∧
      ∀ rb, x.r = some rb → bufOwner s.bufs rb.id = .ser e ∧ x.len ≤ rb.cap

/-- R66's clause on the mode: an exchange in progress is in SPI mode. -/
def ModeInv (s : State) : Prop := ∀ e x, (s.eng e).ctx = some x → (s.eng e).mode = .spi

/-- What holds between two steps of the operation in progress, so that the invariants above hold when it completes: a buffer
that was handed over at the operation's first step is still the channel's or the engine's, and the place it is going to is
still empty (R65, R66; the state after a first step of R186, R264, R260, R313). -/
def MidInv (s : State) : Prop :=
  match s.cur with
  | none => True
  | some ⟨i, k, _⟩ =>
    match i with
    | .dmaProgram c _ b _ | .dmaDoTransfer c _ b _ =>
      1 ≤ k → k ≤ 3 → bufOwner s.bufs b.id = .chan c ∧ (s.chan c).slot = none
    | .serSendBytes e b _ =>
      1 ≤ k → k ≤ 3 → ∃ c p, (s.eng e).dma = some (c, p) ∧ bufOwner s.bufs b.id = .chan c ∧ (s.chan c).slot = none
    | .serReadWriteBytes e w r len =>
      1 ≤ k → k ≤ 4 →
        (s.eng e).mode = .spi ∧ (s.eng e).ctx = none ∧ bufOwner s.bufs w.id = .ser e ∧ 1 ≤ len.toNat ∧
          len.toNat ≤ w.cap ∧ ∀ rb, r = some rb → bufOwner s.bufs rb.id = .ser e ∧ len.toNat ≤ rb.cap
    | .serConfigureUart e _ => k = 1 → (s.eng e).ctx = none
    | _ => True

/-- The ownership invariant (R65, R66), for every state of a run and not only between operations. -/
def OwnershipInv (s : State) : Prop := SlotInv s ∧ ExchangeInv s ∧ ModeInv s ∧ MidInv s

/-- The attachment invariant: a channel whose client is a serial engine is the channel that engine is attached to (R269). -/
def BindInv (s : State) : Prop :=
  ∀ c e, (s.chan c).client = some (.serEngine e) → ∃ p, (s.eng e).dma = some (c, p)

/-- Two buffers share no byte (R60): no address lies in both. A buffer of capacity 0 shares none with any other. -/
def bufDisjoint (a b : Buf) : Prop := ∀ x : Word, ¬ (bufCovers a x = true ∧ bufCovers b x = true)

/-- Whether an address may lie in no buffer: it is in a register block, in code memory or in the processor's stack
(R411; log 31). -/
def OffLimits (a : Word) : Prop :=
  inChanBlocks a.toNat ∨ inSerBlocks a.toNat ∨ Config.codeMemory a = true ∨ Config.stackMemory a = true

/-- The launch premises on the state at launch and the buffers of a program (R411), which the model assumes and does not
check: every buffer is the host's, so that the table of the buffers the block owns is empty (R61; log 8); distinct buffers have distinct ids and share no byte; no buffer overlaps a register block,
code memory or the stack. That data memory is defined at every address of every buffer holds of every state: `memRead` has a
value at every address. -/
def LaunchPremises (s : State) (bs : List Buf) : Prop :=
  s.bufs = [] ∧ bs.Pairwise (fun a b => a.id ≠ b.id ∧ bufDisjoint a b) ∧
    ∀ b ∈ bs, b.addr.toNat + b.cap ≤ 2 ^ 32 ∧ ∀ a, bufCovers b a = true → ¬ OffLimits a

/-- A run ended by quiescence (R441): the schedule gives no further turn, and no agent's step is enabled. -/
def Quiescent (s : State) : Prop := s.Running ∧ s.sched.input = [] ∧ freeSteps s = []

/-- A quiescent state with a buffer still the block's: the spec's "permanently unreturned" buffer (R426, R441). -/
def Unreturned (s : State) : Prop := Quiescent s ∧ s.bufs ≠ []

end Sys2Proof.Machine
end

