-- ==== Sys2Proof/Certificates/Slice0/Obligations.lean ====
section
/-! DEFINITION. The statements for the provers. Each docstring names the rules of spec/ it formalises, or says that it is
derived from them; where a clause rests on a choice of this model, the docstring names the log entry. -/

open Sys2Proof Sys2Proof.Machine

/-! ## Encoding -/

/-- R141, R142: every well-formed instruction, with every operand at every value its encoding admits, decodes from its own
encoding, whatever words follow. The layout of the side-operand words is the model's (log 13). -/
def Obligations.DecodeEncode : Prop :=
  ∀ (i : Instr) (rest : List Word), WellFormed i → decode (encode i ++ rest) = .ok (i, rest)

/-- R141 to R144: the decoder accepts nothing but encodings: what it reads is well formed, and encodes to the words read. -/
def Obligations.EncodeDecode : Prop :=
  ∀ (ws rest : List Word) (i : Instr), decode ws = .ok (i, rest) → WellFormed i ∧ encode i ++ rest = ws

/-- R144, R145: the reserved opcodes are exactly those of no mnemonic, and a word with one is refused; a word fails its
row's check exactly when it has a nonzero bit outside its opcode's fields, and is then refused. -/
def Obligations.ReservedWordsRefused : Prop :=
  ∀ (w : Word) (ws : List Word),
    ((wordOpc w).toNat ∈ [0x00, 0x05, 0x06, 0x07, 0x11, 0x12, 0x13, 0x14, 0x15, 0x16, 0x17, 0x25, 0x26, 0x27, 0x35, 0x36,
          0x37, 0x38, 0x39, 0x3A, 0x3B, 0x3C, 0x3D, 0x3E] ↔ ∀ o : Op, o.code ≠ wordOpc w) ∧
      ((∀ o : Op, o.code ≠ wordOpc w) → decode (w :: ws) = .error .reservedEncoding) ∧
      ∀ o : Op, o.code = wordOpc w →
        (w &&& o.maskWord ≠ o.matchWord ↔ ∃ j, j < 26 ∧ o.maskWord.getLsbD j = true ∧ w.getLsbD j = true) ∧
          (w &&& o.maskWord ≠ o.matchWord → decode (w :: ws) = .error .reservedEncoding)

/-- R143: the checks on the fields of a word that matches its row. Which check comes first is the model's choice (DEDUCED,
log 20): R143 does not order the serial index before the PID field, nor both before side operands that are missing. -/
def Obligations.FieldChecks : Prop :=
  ∀ (w : Word) (ws : List Word) (o : Op), decodeOp w = .ok o →
    (o ∈ [Op.serConfigureUart, .serSendByte, .serSendBytes, .serInitSpi, .serReadWriteBytes, .serHandleIrq, .serDmaDone,
          .serSetClient, .serAttachDma, .serEnableTx, .serDisableTx, .serEnableRx, .serDisableRx, .spiSetClock, .spiGetClock,
          .spiSetPhase, .spiGetPhase, .spiSetRate, .spiGetRate, .spiSetChipSelect, .spiGetChipSelect, .evSerLoad, .evSerShift,
          .evSerRxArrive] →
        Config.nSer ≤ (wordIdx w).toNat → decode (w :: ws) = .error .indexOutOfRange) ∧
      (o = .irqDispatch → wordKind w = true → Config.nSer ≤ (wordIdx w).toNat →
        decode (w :: ws) = .error .indexOutOfRange) ∧
      (o ∈ [Op.dmaProgram, .dmaDoTransfer] → (∀ p : Pid, p.code ≠ (wordPid w).toNat) →
        decode (w :: ws) = .error .reservedEncoding) ∧
      (o ∈ [Op.serDmaDone, .serAttachDma] → (wordIdx w).toNat < Config.nSer → (∀ p : Pid, p.code ≠ (wordPid w).toNat) →
        decode (w :: ws) = .error .reservedEncoding) ∧
      (o ∈ [Op.regFieldGet, .regFieldSet] → wordHi w < wordLo w → decode (w :: ws) = .error .reservedEncoding)

/-- R232, with R231 and the constraints of R122: decoding a selector compares the whole word, and gives an identity exactly
for the identity's own code; the source's code 24 is TWIM1_TX; the codes are injective, below 64, and one below the largest
is unused. With the rows of R121 (but for code 24 the candidates, log 2): every identity's code, peripheral and direction
(R233); and R234: the identities of USART<s> are served by engine s, and no other by an engine. -/
def Obligations.SelectorDecoding : Prop :=
  let table : List (Nat × Pid × PeriphName × Dir) :=
    [(0, .usart0Rx, .usart 0, .rx), (1, .usart1Rx, .usart 1, .rx), (2, .usart2Rx, .usart 2, .rx), (3, .usart3Rx, .usart 3, .rx),
      (4, .spiRx, .spi, .rx), (5, .twim0Rx, .twim 0, .rx), (6, .twim1Rx, .twim 1, .rx), (7, .twim2Rx, .twim 2, .rx),
      (8, .twim3Rx, .twim 3, .rx), (9, .twis0Rx, .twis 0, .rx), (10, .twis1Rx, .twis 1, .rx), (11, .adcifeRx, .adcife, .rx),
      (12, .catbRx, .catb, .rx), (14, .iiscCh0Rx, .iisc, .rx), (15, .iiscCh1Rx, .iisc, .rx), (16, .parcRx, .parc, .rx),
      (17, .aesaRx, .aesa, .rx), (18, .usart0Tx, .usart 0, .tx), (19, .usart1Tx, .usart 1, .tx), (20, .usart2Tx, .usart 2, .tx),
      (21, .usart3Tx, .usart 3, .tx), (22, .spiTx, .spi, .tx), (23, .twim0Tx, .twim 0, .tx), (24, .twim1Tx, .twim 1, .tx),
      (25, .twim2Tx, .twim 2, .tx), (26, .twim3Tx, .twim 3, .tx), (27, .twis0Tx, .twis 0, .tx), (28, .twis1Tx, .twis 1, .tx),
      (29, .adcifeTx, .adcife, .tx), (30, .catbTx, .catb, .tx), (31, .abdacbSdr0Tx, .abdacb, .tx),
      (32, .abdacbSdr1Tx, .abdacb, .tx), (33, .iiscCh0Tx, .iisc, .tx), (34, .iiscCh1Tx, .iisc, .tx), (35, .daccTx, .dacc, .tx),
      (36, .aesaTx, .aesa, .tx), (37, .lcdcaAcmdrTx, .lcdca, .tx), (38, .lcdcaAbmdrTx, .lcdca, .tx)]
  (∀ (sel : Word) (p : Pid), decodeSelector sel = some p ↔ sel = BitVec.ofNat 32 p.code) ∧
    (∀ p : Pid, decodeSelector (BitVec.ofNat 32 p.code) = some p) ∧
    decodeSelector 24 = some .twim1Tx ∧ decodeSelector 13 = none ∧ decodeSelector 39 = none ∧ decodeSelector 0x118 = none ∧
    (∀ p q : Pid, p.code = q.code → p = q) ∧ Pid.code .twim1Tx = 24 ∧ (∀ p : Pid, p.code < 64) ∧
    (∃ n, (∀ p : Pid, p.code ≠ n) ∧ ∃ p : Pid, n < p.code) ∧
    (∀ r ∈ table, r.2.1.code = r.1 ∧ r.2.1.periphName = r.2.2.1 ∧ r.2.1.dir = r.2.2.2) ∧
    (∀ p : Pid, ∃ r ∈ table, r.2.1 = p) ∧
    (∀ (p : Pid) (e : SerIx), periphOf p = .engine e ↔ p.periphName = .usart e) ∧
    ∀ (p : Pid) (n : PeriphName), periphOf p = .external n ↔ p.periphName = n ∧ ∀ e : SerIx, n ≠ .usart e

/-- A sanity statement: words written out from R141's fields, of every family, decode to their instructions. -/
def Obligations.WrittenWordsDecode : Prop :=
  decodeTableWord 32 0x0C000300 = some (.regFieldGet 3 0 0) ∧ decodeTableWord 32 0x21400000 = some (.dmaEnable 5) ∧
    decodeTableWord 32 0x29580000 = some (.dmaProgram 5 .twim1Tx ⟨0, 0, 0⟩ 0) ∧
    decodeTableWord 32 0x64000041 = some (.serSendByte 0 0x41) ∧
    decodeTableWord 32 0x80120002 = some (.serAttachDma 0 .usart0Tx 2) ∧
    decodeTableWord 32 0xA0400001 = some (.spiSetClock 1 true) ∧
    decodeTableWord 32 0xC0400100 = some (.irqDispatch (.ser 1)) ∧
    decodeTableWord 32 0xC1400000 = some (.irqDispatch (.dma 5)) ∧
    decodeTableWord 32 0xC5800077 = some (.evDmaStep 6 0x77) ∧
    decodeTableWord 32 0xCC40005A = some (.evSerShift 1 0x5A) ∧ decodeTableWord 32 0xFC000000 = some .evHardFault

/-! ## The step -/

/-- A step runs the decoded instruction (R7, R21, R97; the schedule is the model's form of the free choices of R243, log 1):
the host's operation when the CPU agent is between operations, another agent's step at any time, and the operation in
progress when its turn comes and when the host's turn must wait for it. What a step does when no turn is left is said by
UnscheduledSteps. -/
def Obligations.StepRunsInstruction : Prop :=
  ∀ (s : State) (ws : List Word) (rest : List Turn), s.sched.booted = true → s.Running →
    (∀ i tl, decode ws = .ok (i, tl) →
      (∀ b, s.sched.input = .host ws b :: rest → s.cur = none → i.op.hostMayIssue = true →
        step s = exec i ((s.popTurn rest).withBurst b)) ∧
      ∀ q, s.sched.input = .agent ws q :: rest → i.op.hostMayIssue = false →
        step s = exec i ((s.popTurn rest).withExtReq q)) ∧
    ∀ c, s.cur = some c →
      (∀ b, s.sched.input = .cpu b :: rest → step s = exec c.op ((s.popTurn rest).withBurst b)) ∧
        ∀ b, s.sched.input = .host ws b :: rest → step s = exec c.op (s.withBurst none)

/-- R149, R144, R145: which operations the host may issue, and the refusal of a host word that is none of them. That a
handler's or an agent's word which the decoder refuses as well gets the decoder's reason is the model's choice (DESIGN CHOICE,
log 32): no rule orders the two. -/
def Obligations.HostIssueRefused : Prop :=
  (∀ o : Op, o.hostMayIssue = false ↔
      o ∈ [Op.dmaHandleIrq, .serHandleIrq, .serDmaDone, .irqDispatch, .evDmaStep, .evSerLoad, .evSerShift, .evSerRxArrive,
        .evHardFault]) ∧
    ∀ (s : State) (ws : List Word) (b : Option Nat) (rest : List Turn), s.sched.booted = true → s.Running → s.cur = none →
      s.sched.input = .host ws b :: rest →
      (∀ i tl, decode ws = .ok (i, tl) → i.op.hostMayIssue = false →
        step s = .next (refuse .handlerEntryFromHost ((s.popTurn rest).withBurst b))) ∧
      ∀ r, decode ws = .error r → step s = .next (refuse r ((s.popTurn rest).withBurst b))

/-- R360, R362, R351, R31, R242: a refused run makes no step; a halted machine refuses the host's operation, with its fault
record as it was, and steps no other agent; a CPU agent busy with one operation starts no other, and no dispatch happens.
Four clauses are the model's choices: that a step of a halted machine is the outcome `halted` (log 9) and that of a refused run
`runEnded` (log 10); that a host turn of a halted machine is refused HALTED whatever its words, also words that are no
operation of the host's (DEDUCED, log 23); and that an operation which cannot start leaves the state as it is (DESIGN CHOICE,
log 11). -/
def Obligations.StoppedAndBusyMachines : Prop :=
  (∀ s : State, s.sched.booted = true → s.refused = true → step s = .refused .runEnded) ∧
    (∀ (s : State) (ws : List Word) (b : Option Nat) (rest : List Turn), s.sched.booted = true → s.refused = false →
      s.fault.isSome = true →
      (s.sched.input = .host ws b :: rest → step s = .next (refuse .halted (s.popTurn rest))) ∧
        ((∀ ws b rest, s.sched.input ≠ .host ws b :: rest) → step s = .fault .halted)) ∧
    ∀ (s : State) (i : Instr) (c : Cur), s.Running → s.cur = some c → c.op ≠ i →
      i.op ∉ [Op.evDmaStep, .evSerLoad, .evSerShift, .evSerRxArrive, .evHardFault] → exec i s = .next s

/-! ## Register access -/

/-- R38, R50, R94, R109, with the tables before R42 and R56 and the candidate layout (log 2): every register is at the address
its table gives and no other address has it, the addresses that the other statements use are these, and no misaligned address
has a register. -/
def Obligations.AddressMap : Prop :=
  let chanTable : List (ChanReg × Nat) :=
    [(.mar, 0x00), (.psr, 0x04), (.tcr, 0x08), (.cr, 0x14), (.mr, 0x18), (.sr, 0x1C), (.ier, 0x20), (.idr, 0x24), (.imr, 0x28),
      (.isr, 0x2C)]
  let serTable : List (SerReg × Nat) :=
    [(.cr, 0x00), (.mr, 0x04), (.ier, 0x08), (.idr, 0x0C), (.imr, 0x10), (.csr, 0x14), (.rhr, 0x18), (.thr, 0x1C),
      (.brgr, 0x20), (.ttgr, 0x28)]
  (∀ (a : Word) (c : ChanIx), ∀ p ∈ chanTable,
      (regAt a = some (.chan c p.1) ↔ a.toNat = 0x400A2000 + 0x40 * c.val + p.2) ∧
        (chanAddr c p.1).toNat = 0x400A2000 + 0x40 * c.val + p.2) ∧
    (∀ (a : Word) (e : SerIx), ∀ p ∈ serTable,
      (regAt a = some (.ser e p.1) ↔ a.toNat = 0x40024000 + 0x4000 * e.val + p.2) ∧
        (serAddr e p.1).toNat = 0x40024000 + 0x4000 * e.val + p.2) ∧
    (∀ r : ChanReg, ∃ p ∈ chanTable, p.1 = r) ∧ (∀ r : SerReg, ∃ p ∈ serTable, p.1 = r) ∧
    ∀ a : Word, a.toNat % 4 ≠ 0 → regAt a = none

/-- R170 to R173, R95: the four register operations on a modelled register whose clock is on. The value read and the effect
are the register's own. And R101: a second write of the same value changes nothing more, but for THR. -/
def Obligations.RegisterOperations : Prop :=
  ∀ (s : State) (a v : Word) (hi lo : Fin 32) (r : RegRef), s.Ready → regAt a = some r → clocked s r = true →
    exec (.regRead a) s = .next (emit (.ret .regRead (.word (regValue r s))) (regReadEffect r s)) ∧
      exec (.regWrite a v) s = .next (emit (.ret .regWrite .unit) (regWriteEffect r v s)) ∧
      exec (.regFieldGet hi lo a) s =
        .next (emit (.ret .regFieldGet (.word (fieldGet (regValue r s) hi lo))) (regReadEffect r s)) ∧
      exec (.regFieldSet hi lo a v) s =
        .next (emit (.ret .regFieldSet .unit) (regWriteEffect r (fieldPut (regValue r s) hi lo v) (regReadEffect r s))) ∧
      ((∀ e, r ≠ .ser e .thr) → ∃ t, exec (.regWrite a v) s = .next t ∧
        exec (.regWrite a v) t = .next (emit (.ret .regWrite .unit) t))

/-- R93, R94: the four register operations on an address of no modelled register are refused, and on a gated block fault,
with no other effect. -/
def Obligations.RegisterOperationStops : Prop :=
  ∀ (s : State) (a v : Word) (hi lo : Fin 32), s.Ready →
    ∀ i ∈ [Instr.regRead a, .regWrite a v, .regFieldGet hi lo a, .regFieldSet hi lo a v],
      (regAt a = none → exec i s = .next (refuse .unmodelledRegister s)) ∧
        ∀ r, regAt a = some r → clocked s r = false → exec i s = .next (raise (.clockGatedAccess a) s)

/-- R42 to R48, R91: what a read of each channel register returns, and that it changes nothing; a read of a write-only one
returns the draw. -/
def Obligations.ChannelRegisterReads : Prop :=
  ∀ (s : State) (c : ChanIx), s.Ready → s.dmaGate = true →
    (∀ p ∈ [(ChanReg.mar, (s.chan c).mar), (.psr, (s.chan c).psr), (.tcr, (s.chan c).tcr.zeroExtend 32), (.mr, (s.chan c).mr),
          (.sr, if (s.chan c).ten then 1 else 0), (.imr, (s.chan c).imr.zeroExtend 32),
          (.isr, if (s.chan c).tcr = 0 then 3 else 1)],
        exec (.regRead (chanAddr c p.1)) s = .next (emit (.ret .regRead (.word p.2)) s)) ∧
      ∀ r ∈ [ChanReg.cr, .ier, .idr],
        exec (.regRead (chanAddr c r)) s =
          .next (emit (.ret .regRead (.word (Config.drawWord s.sched.draws))) (s.advance 1))

/-- R56 to R59, R91: what a read of each serial register returns; only a read of RHR changes a register, clearing RXRDY; a
read of a write-only one returns the draw. -/
def Obligations.SerialRegisterReads : Prop :=
  ∀ (s : State) (e : SerIx), s.Ready → (s.eng e).clkOn = true →
    (∀ p ∈ [(SerReg.mr, (s.eng e).mr), (.imr, (s.eng e).imr), (.brgr, (s.eng e).brgr), (.ttgr, (s.eng e).ttgr),
          (.csr, (if (s.eng e).rxrdy then 0x01#32 else 0) ||| (if (s.eng e).txen && !(s.eng e).thrFull then 0x02#32 else 0) |||
            (if (s.eng e).ovre then 0x20#32 else 0))],
        exec (.regRead (serAddr e p.1)) s = .next (emit (.ret .regRead (.word p.2)) s)) ∧
      exec (.regRead (serAddr e .rhr)) s =
        .next (emit (.ret .regRead (.word ((s.eng e).rhr.zeroExtend 32))) (s.setEng e { s.eng e with rxrdy := false })) ∧
      ∀ r ∈ [SerReg.cr, .ier, .idr, .thr],
        exec (.regRead (serAddr e r)) s =
          .next (emit (.ret .regRead (.word (Config.drawWord s.sched.draws))) (s.advance 1))

/-- R42 to R48, R92: what a write to each channel register does, and that it does nothing else; TDIS wins over TEN, and a
write to a read-only register has no effect. -/
def Obligations.ChannelRegisterWrites : Prop :=
  ∀ (s : State) (c : ChanIx) (v : Word), s.Ready → s.dmaGate = true →
    ∀ p ∈ [(ChanReg.mar, { s.chan c with mar := v }), (.psr, { s.chan c with psr := v }),
        (.tcr, { s.chan c with tcr := v.extractLsb' 0 16 }), (.mr, { s.chan c with mr := v }),
        (.cr, { s.chan c with
          ten := if v.getLsbD 1 then false else if v.getLsbD 0 then true else (s.chan c).ten }),
        (.ier, { s.chan c with imr := (s.chan c).imr ||| v.extractLsb' 0 3 }),
        (.idr, { s.chan c with imr := (s.chan c).imr &&& ~~~(v.extractLsb' 0 3) }),
        (.sr, s.chan c), (.imr, s.chan c), (.isr, s.chan c)],
      exec (.regWrite (chanAddr c p.1) v) s = .next (emit (.ret .regWrite .unit) (s.setChan c p.2))

/-- R56, R57, R92, R282: what a write to each serial register but CR does, and that it does nothing else. On a full THR
`keep` is the draw of which byte is lost. -/
def Obligations.SerialRegisterWrites : Prop :=
  ∀ (s : State) (e : SerIx) (v : Word), s.Ready → (s.eng e).clkOn = true →
    (∀ p ∈ [(SerReg.mr, { s.eng e with mr := v }), (.brgr, { s.eng e with brgr := v }), (.ttgr, { s.eng e with ttgr := v }),
        (.ier, { s.eng e with imr := (s.eng e).imr ||| (v &&& 0x23) }),
        (.idr, { s.eng e with imr := (s.eng e).imr &&& ~~~(v &&& 0x23) }),
        (.imr, s.eng e), (.csr, s.eng e), (.rhr, s.eng e)],
      exec (.regWrite (serAddr e p.1) v) s = .next (emit (.ret .regWrite .unit) (s.setEng e p.2))) ∧
      ((s.eng e).thrFull = false →
        exec (.regWrite (serAddr e .thr) v) s =
          .next (emit (.ret .regWrite .unit) (s.setEng e { s.eng e with thr := v.extractLsb' 0 8, thrFull := true }))) ∧
      ((s.eng e).thrFull = true →
        ∃ keep : Bool, exec (.regWrite (serAddr e .thr) v) s =
          .next (emit (.ret .regWrite .unit)
            ((s.setEng e { s.eng e with thr := if keep then v.extractLsb' 0 8 else (s.eng e).thr }).advance 1)))

/-- R315, with the CR bits of R57 to R59: a CR write of any value changes the engine's enables, its transmit and receive
state and chip-select as the bits say, emits CsPin exactly when chip-select changes, and changes nothing else. Which of enable
and reset wins when both are set without the disable bit no rule says: there the enable is `dt` or `dr`, a value that is open
(log 12) but is the same for every such write of `v` to the engine (R101). -/
def Obligations.SerialControlWrites : Prop :=
  ∀ (e : SerIx) (v : Word), ∃ dt dr : Bool, ∀ s : State, s.Ready → (s.eng e).clkOn = true →
    let x := s.eng e
    let openT := v.getLsbD 6 && v.getLsbD 3 && !v.getLsbD 7
    let openR := v.getLsbD 4 && v.getLsbD 2 && !v.getLsbD 5
    let cs := if v.getLsbD 19 then false else if v.getLsbD 18 then true else x.csAsserted
    exec (.regWrite (serAddr e .cr) v) s =
      .next { s.setEng e { x with
          txen := if openT then dt else if v.getLsbD 7 || v.getLsbD 3 then false else if v.getLsbD 6 then true else x.txen
          thrFull := if v.getLsbD 3 then false else x.thrFull
          shift := if v.getLsbD 3 then none else x.shift
          rxen := if openR then dr else if v.getLsbD 5 || v.getLsbD 2 then false else if v.getLsbD 4 then true else x.rxen
          rxrdy := if v.getLsbD 2 then false else x.rxrdy
          ovre := if v.getLsbD 2 || v.getLsbD 8 then false else x.ovre
          csAsserted := cs } with
        events := s.events ++ (if cs = x.csAsserted then [] else [.csPin e (!cs)]) ++ [.ret .regWrite .unit] }

/-- R18, R95: the bits that FieldGet returns and that FieldSet writes, for every range. -/
def Obligations.BitFields : Prop :=
  ∀ (hi lo : Fin 32) (t v : Word) (j : Nat), lo ≤ hi →
    (fieldGet v hi lo).getLsbD j = (decide (lo.val + j ≤ hi.val) && v.getLsbD (lo.val + j)) ∧
      (fieldPut t hi lo v).getLsbD j =
        if lo.val ≤ j ∧ j ≤ hi.val then v.getLsbD (j - lo.val) else t.getLsbD j

/-! ## The DMA channel manager -/

/-- R180, R183: DMA_ENABLE and DMA_DISABLE, all they write and nothing else. -/
def Obligations.EnableAndDisable : Prop :=
  ∀ (s : State) (c : ChanIx), s.Ready →
    exec (.dmaEnable c) s =
      .next { s.setChan c { s.chan c with enabled := true } with
        dmaCount := if (s.chan c).enabled then s.dmaCount else s.dmaCount + 1
        dmaGate := if (s.chan c).enabled = false ∧ s.dmaCount = 0 then true else s.dmaGate
        dmaMasked := s.dmaMasked.set c.val false c.isLt
        events := s.events ++ [.ret .dmaEnable .unit] } ∧
    exec (.dmaDisable c) s =
      .next { s.setChan c { s.chan c with enabled := false } with
        dmaCount := if (s.chan c).enabled then s.dmaCount - 1 else s.dmaCount
        dmaGate := if (s.chan c).enabled = true ∧ s.dmaCount - 1 = 0 then false else s.dmaGate
        dmaMasked := s.dmaMasked.set c.val true c.isLt
        events := s.events ++ [.ret .dmaDisable .unit] }

/-- R184: DMA_ENABLE and then DMA_DISABLE is net zero on a channel that starts disabled, and on an enabled channel leaves it
disabled with the counter one lower. The premise is the counter invariant (R65), which ClockInvariantKept states. -/
def Obligations.EnableDisableNetZero : Prop :=
  ∀ (s : State) (c : ChanIx), s.Ready → ClockInv s →
    ∃ s1 s2, exec (.dmaEnable c) s = .next s1 ∧ exec (.dmaDisable c) s1 = .next s2 ∧
      ((s.chan c).enabled = false →
        s2.dmaCount = s.dmaCount ∧ s2.dmaGate = s.dmaGate ∧ (s2.chan c).enabled = (s.chan c).enabled ∧
          s2.dmaMasked.get c = s.dmaMasked.get c) ∧
      ((s.chan c).enabled = true → (s2.chan c).enabled = false ∧ s2.dmaCount + 1 = s.dmaCount)

/-- R186, R187, R125: DMA_PROGRAM with a buffer of the host's and an empty slot: the clamped count, the selector word, the
address, the armed interrupt, the slot, the owner, and nothing else; TEN is not written. -/
def Obligations.ProgramResult : Prop :=
  ∀ (s : State) (c : ChanIx) (p : Pid) (b : Buf) (len : Word), s.Ready → s.dmaGate = true →
    bufOwner s.bufs b.id = .host → (s.chan c).slot = none → min len.toNat b.cap ≤ 65535 →
    exec (.dmaProgram c p b len) s =
      .next (emit (.ret .dmaProgram .unit)
        ((setOwner b (.chan c) s).setChan c { s.chan c with
          psr := BitVec.ofNat 32 p.code, mar := b.addr, tcr := BitVec.ofNat 16 (min len.toNat b.cap),
          imr := (s.chan c).imr ||| 0b010#3, slot := some b }))

/-- R191, R148: DMA_DO_TRANSFER does what DMA_PROGRAM does and sets the start bit, in one operation. -/
def Obligations.DoTransferResult : Prop :=
  ∀ (s : State) (c : ChanIx) (p : Pid) (b : Buf) (len : Word), s.Ready → s.dmaGate = true →
    bufOwner s.bufs b.id = .host → (s.chan c).slot = none → min len.toNat b.cap ≤ 65535 →
    exec (.dmaDoTransfer c p b len) s =
      .next (emit (.ret .dmaDoTransfer .unit)
        ((setOwner b (.chan c) s).setChan c { s.chan c with
          psr := BitVec.ofNat 32 p.code, mar := b.addr, tcr := BitVec.ofNat 16 (min len.toNat b.cap),
          imr := (s.chan c).imr ||| 0b010#3, slot := some b, ten := true }))

/-- R186, R188, R356, R93: the checks of DMA_PROGRAM and DMA_DO_TRANSFER in their order, each before any register is written;
at a gated block the first write faults, and the change of owner before it stays (R351). -/
def Obligations.ProgramChecks : Prop :=
  ∀ (s : State) (c : ChanIx) (p : Pid) (b : Buf) (len : Word), s.Ready →
    ∀ i ∈ [Instr.dmaProgram c p b len, .dmaDoTransfer c p b len],
      (bufOwner s.bufs b.id ≠ .host → exec i s = .next (refuse .bufferNotHostOwned s)) ∧
        (bufOwner s.bufs b.id = .host → ∀ held, (s.chan c).slot = some held →
          exec i s = .next (raise (.bufferOverwrite c held.id b.id) s)) ∧
        (bufOwner s.bufs b.id = .host → (s.chan c).slot = none →
          (65535 < min len.toNat b.cap → exec i s = .next (raise (.lengthTooLarge c (min len.toNat b.cap)) s)) ∧
            (min len.toNat b.cap ≤ 65535 → s.dmaGate = false →
              exec i s = .next (raise (.clockGatedAccess (chanAddr c .psr)) (setOwner b (.chan c) s))))

/-- R190, R196: DMA_START sets TEN and nothing else; DMA_XFER_COUNT returns the count and changes nothing. -/
def Obligations.StartAndCount : Prop :=
  ∀ (s : State) (c : ChanIx), s.Ready → s.dmaGate = true →
    exec (.dmaStart c) s = .next (emit (.ret .dmaStart .unit) (s.setChan c { s.chan c with ten := true })) ∧
      exec (.dmaXferCount c) s = .next (emit (.ret .dmaXferCount (.word ((s.chan c).tcr.zeroExtend 32))) s)

/-- R193, R204: DMA_ABORT clears the mask and the count, takes the slot and returns its buffer to the host; TEN stays; and
whatever else happens, with the channel left so no DMA step of it moves a byte. -/
def Obligations.AbortResult : Prop :=
  ∀ (s : State) (c : ChanIx), s.Ready → s.dmaGate = true →
    ∃ t, exec (.dmaAbort c) s = .next t ∧
      t = { s.setChan c { s.chan c with imr := 0, tcr := 0, slot := none } with
        bufs := match (s.chan c).slot with
          | some b => bufSet s.bufs b .host
          | none => s.bufs
        events := s.events ++ [.ret .dmaAbort (.buf (s.chan c).slot)] } ∧
      ∀ (u : State) (x0 : Byte), u.Running → u.chan c = t.chan c → exec (.evDmaStep c x0) u = .next u

/-- R93, R432: the operations that begin with a register access fault when the clock of the block is off, with no other
effect. -/
def Obligations.GatedOperations : Prop :=
  (∀ (s : State) (c : ChanIx), s.Ready → s.dmaGate = false →
      exec (.dmaStart c) s = .next (raise (.clockGatedAccess (chanAddr c .cr)) s) ∧
        exec (.dmaAbort c) s = .next (raise (.clockGatedAccess (chanAddr c .idr)) s) ∧
        exec (.dmaXferCount c) s = .next (raise (.clockGatedAccess (chanAddr c .tcr)) s)) ∧
    ∀ (s : State) (e : SerIx) (v : Bool), s.Ready → (s.eng e).clkOn = false →
      (∀ i ∈ [Instr.serEnableTx e, .serDisableTx e, .serEnableRx e, .serDisableRx e],
          exec i s = .next (raise (.clockGatedAccess (serAddr e .cr)) s)) ∧
        ∀ i ∈ [Instr.spiSetClock e v, .spiGetClock e, .spiSetPhase e v, .spiGetPhase e],
          exec i s = .next (raise (.clockGatedAccess (serAddr e .mr)) s)

/-- R197, R268, R269: the registration operations, and what each refuses. -/
def Obligations.Registration : Prop :=
  ∀ (s : State), s.Ready →
    (∀ (c : ChanIx) (k : Nat), ∀ client ∈ [none, some (DmaClient.ext k)],
        exec (.dmaSetClient c client) s =
          .next (emit (.ret .dmaSetClient .unit) (s.setChan c { s.chan c with client := client }))) ∧
      (∀ (c : ChanIx) (e : SerIx),
        exec (.dmaSetClient c (some (.serEngine e))) s = .next (refuse .paramOutOfRange s)) ∧
      (∀ (e : SerIx) (client : SerClient),
        exec (.serSetClient e client) s =
          .next (emit (.ret .serSetClient .unit) (s.setEng e { s.eng e with client := client }))) ∧
      ∀ (e : SerIx) (p : Pid) (c : ChanIx),
        ((s.eng e).dma = none ∧ (s.chan c).client = none ∧ p.dir = .tx →
            exec (.serAttachDma e p c) s =
              .next (emit (.ret .serAttachDma .unit)
                ((s.setEng e { s.eng e with dma := some (c, p) }).setChan c
                  { s.chan c with client := some (.serEngine e) }))) ∧
          (¬ ((s.eng e).dma = none ∧ (s.chan c).client = none ∧ p.dir = .tx) →
            exec (.serAttachDma e p c) s = .next (refuse .paramOutOfRange s))

/-! ## Interrupt dispatch and the channel handler -/

/-- R240, R369, R47, R57: IRQ_DISPATCH is enabled exactly when the CPU agent is between operations and the line is asserted
and not masked; it then puts the line's handler in progress and changes nothing else. Not enabled it leaves everything as it
is, the model's form of "not enabled" (log 11). -/
def Obligations.DispatchResult : Prop :=
  ∀ s : State, s.Running →
    (∀ c : ChanIx,
      let on := s.cur = none ∧ s.dmaMasked.get c = false ∧
        (((s.chan c).tcr = 0 ∧ (s.chan c).imr.getLsbD 1 = true) ∨ (s.chan c).imr.getLsbD 0 = true)
      (on → exec (.irqDispatch (.dma c)) s = .next { s with cur := some ⟨.dmaHandleIrq c, 0, 0⟩ }) ∧
        (¬ on → exec (.irqDispatch (.dma c)) s = .next s)) ∧
    ∀ e : SerIx,
      let on := s.cur = none ∧ s.serMasked.get e = false ∧
        (((s.eng e).rxrdy = true ∧ (s.eng e).imr.getLsbD 0 = true) ∨
          ((s.eng e).txen = true ∧ (s.eng e).thrFull = false ∧ (s.eng e).imr.getLsbD 1 = true) ∨
          ((s.eng e).ovre = true ∧ (s.eng e).imr.getLsbD 5 = true))
      (on → exec (.irqDispatch (.ser e)) s = .next { s with cur := some ⟨.serHandleIrq e, 0, 0⟩ }) ∧
        (¬ on → exec (.irqDispatch (.ser e)) s = .next s)

/-- R198, R231, R370: DMA_HANDLE_IRQ with no client or a host's: the identity the whole selector word decodes to is passed
on, the slot and the mask stay, and the handler returns; an unmapped selector faults. -/
def Obligations.ChannelHandler : Prop :=
  ∀ (s : State) (c : ChanIx), s.AtEntry (.dmaHandleIrq c) → s.dmaGate = true →
    (decodeSelector (s.chan c).psr = none →
        exec (.dmaHandleIrq c) s = .next (raise (.unmappedSelector c (s.chan c).psr) s)) ∧
      ∀ p, decodeSelector (s.chan c).psr = some p →
        ((s.chan c).client = none → exec (.dmaHandleIrq c) s = .next { s with cur := none }) ∧
          ∀ k, (s.chan c).client = some (.ext k) →
            exec (.dmaHandleIrq c) s = .next { s with cur := none, events := s.events ++ [.dmaDone c p] }

/-- R267, R198, R371: SER_DMA_DONE, on its own and as the end of DMA_HANDLE_IRQ: the abort of the attached channel, and the
write-done callback or its fault. -/
def Obligations.DmaDoneHandler : Prop :=
  ∀ (s : State) (i : Instr) (e : SerIx) (c : ChanIx) (q : Pid), s.AtEntry i → s.dmaGate = true →
    (s.eng e).dma = some (c, q) →
    ((∃ p, i = .serDmaDone e p) ∨
      ∃ d, i = .dmaHandleIrq d ∧ (s.chan d).client = some (.serEngine e) ∧ (decodeSelector (s.chan d).psr).isSome = true) →
    let t := { s.setChan c { s.chan c with imr := 0, tcr := 0, slot := none } with cur := none }
    ((s.chan c).slot = none → exec i s = .next t) ∧
      ∀ b, (s.chan c).slot = some b →
        (∀ k, (s.eng e).client = .uartClient k →
            exec i s = .next (emit (.uartWriteDone e b) (setOwner b .host t))) ∧
          ((s.eng e).client = .noClient → exec i s = .next (raise (.noClient e b.id) (setOwner b .host t))) ∧
          ∀ k, (s.eng e).client = .spiClient k → exec i s = .next (raise (.clientShapeMismatch e) (setOwner b .host t))

/-! ## The DMA engine -/

/-- R200, R201, R202: an enabled step of a channel bound to a TX identity delivers the byte at MAR to its peripheral, or to
the engine's holding register; MAR rises, TCR falls, and nothing else changes. -/
def Obligations.DmaTransmitStep : Prop :=
  ∀ (s : State) (c : ChanIx) (x0 : Byte) (p : Pid), s.Running → s.dmaGate = true → (s.chan c).ten = true →
    (s.chan c).tcr ≠ 0 → (s.chan c).mr = 0 → decodeSelector (s.chan c).psr = some p → p.dir = .tx →
    ownsAddr s.bufs (.chan c) (s.chan c).mar = true →
    let x := memRead s.mem (s.chan c).mar.toNat
    let moved := { s.chan c with mar := (s.chan c).mar + 1, tcr := (s.chan c).tcr - 1 }
    (∀ n, periphOf p = .external n → s.sched.extReq = true →
        exec (.evDmaStep c x0) s = .next (emit (.periphTx p x) (s.setChan c moved))) ∧
      ∀ e, periphOf p = .engine e → (s.eng e).clkOn = true → (s.eng e).txen = true → (s.eng e).thrFull = false →
        exec (.evDmaStep c x0) s =
          .next ((s.setEng e { s.eng e with thr := x, thrFull := true }).setChan c moved)

/-- R200, R201, R202: an enabled step of a channel bound to an RX identity stores the peripheral's byte at MAR: that byte of
memory reads as it, every other reads as before; MAR rises, TCR falls, and nothing else changes. -/
def Obligations.DmaReceiveStep : Prop :=
  ∀ (s : State) (c : ChanIx) (x0 : Byte) (p : Pid), s.Running → s.dmaGate = true → (s.chan c).ten = true →
    (s.chan c).tcr ≠ 0 → (s.chan c).mr = 0 → decodeSelector (s.chan c).psr = some p → p.dir = .rx →
    ownsAddr s.bufs (.chan c) (s.chan c).mar = true → Memory.wf s.mem = true →
    let moved := { s.chan c with mar := (s.chan c).mar + 1, tcr := (s.chan c).tcr - 1 }
    let stores (x : Byte) (u : State) : Prop :=
      ∃ t, exec (.evDmaStep c x0) s = .next t ∧ t = { u.setChan c moved with mem := t.mem } ∧
        memRead t.mem (s.chan c).mar.toNat = x ∧ ∀ a, a ≠ (s.chan c).mar.toNat → memRead t.mem a = memRead s.mem a
    (∀ n, periphOf p = .external n → s.sched.extReq = true → stores x0 s) ∧
      ∀ e, periphOf p = .engine e → (s.eng e).clkOn = true → (s.eng e).rxrdy = true →
        stores (s.eng e).rhr (s.setEng e { s.eng e with rxrdy := false })

/-- R200, R202, R96: a DMA step that is not enabled leaves everything as it is, the model's form of "not enabled" (log 11); an
enabled one with a channel mode other than 0 is refused (R48; R200 names only the mode's bits 3 to 0, log 28); and one whose
address lies in no buffer of the channel faults with memory as it was. -/
def Obligations.DmaStepStops : Prop :=
  ∀ (s : State) (c : ChanIx) (x0 : Byte), s.Running →
    (s.dmaGate = false ∨ (s.chan c).ten = false ∨ (s.chan c).tcr = 0 ∨ decodeSelector (s.chan c).psr = none →
        exec (.evDmaStep c x0) s = .next s) ∧
      ∀ p, decodeSelector (s.chan c).psr = some p →
        ((∀ e, periphOf p = .engine e → (s.eng e).clkOn = false ∨
              (p.dir = .tx ∧ ((s.eng e).txen = false ∨ (s.eng e).thrFull = true)) ∨
              (p.dir = .rx ∧ (s.eng e).rxrdy = false)) →
            (∀ n, periphOf p = .external n → s.sched.extReq = false) → exec (.evDmaStep c x0) s = .next s) ∧
          (s.dmaGate = true → (s.chan c).ten = true → (s.chan c).tcr ≠ 0 →
            ((∃ n, periphOf p = .external n ∧ s.sched.extReq = true) ∨
              ∃ e, periphOf p = .engine e ∧ (s.eng e).clkOn = true ∧
                ((p.dir = .tx ∧ (s.eng e).txen = true ∧ (s.eng e).thrFull = false) ∨
                  (p.dir = .rx ∧ (s.eng e).rxrdy = true))) →
            ((s.chan c).mr ≠ 0 → exec (.evDmaStep c x0) s = .next (refuse .unmodelledMode s)) ∧
              ((s.chan c).mr = 0 → ownsAddr s.bufs (.chan c) (s.chan c).mar = false →
                exec (.evDmaStep c x0) s = .next (raise (.dmaOutOfBuffer (.chan c) (s.chan c).mar) s)))

/-! ## The serial engine: UART -/

/-- R260, R262, R131, R134, R137, R261: SER_CONFIGURE_UART on an engine that is not busy, with a divisor in range: clock, BRGR,
MR, mode and the receive interrupt, and nothing else. The divisor function and the MR fields are the candidates (log 2). -/
def Obligations.ConfigureUart : Prop :=
  ∀ (s : State) (e : SerIx) (p : UartParams), s.Ready → engineBusy s e = false → p.baud ≠ 0 →
    let d := Config.baudDivisor Config.refClkHz p.baud.toNat Config.overSel
    let chrl : Nat := match p.dataBits with | .five => 0 | .six => 1 | .seven => 2 | .eight => 3
    let par : Nat := match p.parity with | .even => 0 | .odd => 1 | .space => 2 | .mark => 3 | .none => 4
    let nbstop : Nat := match p.stopBits with | .one => 0 | .oneAndHalf => 1 | .two => 2
    1 ≤ d → d ≤ 65535 →
    d = 48000000 / (16 * p.baud.toNat) ∧
    exec (.serConfigureUart e p) s =
      .next (emit (.ret .serConfigureUart .unit) (s.setEng e { s.eng e with
        clkOn := true, brgr := BitVec.ofNat 32 d,
        mr := BitVec.ofNat 32 (64 * chrl + 512 * par + 4096 * nbstop),
        mode := .uart, imr := (s.eng e).imr ||| 1 }))

/-- R310, R135, R137: SER_INIT_SPI on an engine that is not busy: clock, mode, BRGR, MR and TTGR, and nothing else. -/
def Obligations.InitSpi : Prop :=
  ∀ (s : State) (e : SerIx), s.Ready → engineBusy s e = false →
    exec (.serInitSpi e) s =
      .next (emit (.ret .serInitSpi .unit) (s.setEng e { s.eng e with
        clkOn := true, mode := .spi, brgr := Config.spiCd.zeroExtend 32, mr := 0x000408CE, ttgr := 0 }))

/-- R274, R260, R262, R310: both configurations fault on a busy engine; on another one SER_CONFIGURE_UART faults on a baud
rate of 0 or a divisor out of range, before any effect. -/
def Obligations.ConfigurationStops : Prop :=
  ∀ (s : State) (e : SerIx) (p : UartParams), s.Ready →
    (engineBusy s e = true ↔
        (s.eng e).ctx.isSome = true ∨ ∃ c q, (s.eng e).dma = some (c, q) ∧ (s.chan c).slot.isSome = true) ∧
      (engineBusy s e = true →
        exec (.serConfigureUart e p) s = .next (raise (.reconfigureWhileBusy e) s) ∧
          exec (.serInitSpi e) s = .next (raise (.reconfigureWhileBusy e) s)) ∧
      (engineBusy s e = false →
        let d := Config.baudDivisor Config.refClkHz p.baud.toNat Config.overSel
        p.baud = 0 ∨ d = 0 ∨ 65535 < d → exec (.serConfigureUart e p) s = .next (raise (.baudInvalid e p.baud) s))

/-- R263: SER_SEND_BYTE writes THR when the transmitter is ready, holds the CPU agent while it is not, and faults outside
UART mode. -/
def Obligations.SendByte : Prop :=
  ∀ (s : State) (e : SerIx) (b : Byte), s.Ready →
    ((s.eng e).mode ≠ .uart → exec (.serSendByte e b) s = .next (raise (.wrongMode e .serSendByte) s)) ∧
      ((s.eng e).mode = .uart → (s.eng e).clkOn = true →
        ((s.eng e).txen = true ∧ (s.eng e).thrFull = false →
            exec (.serSendByte e b) s =
              .next (emit (.ret .serSendByte .unit) (s.setEng e { s.eng e with thr := b, thrFull := true }))) ∧
          (¬ ((s.eng e).txen = true ∧ (s.eng e).thrFull = false) →
            exec (.serSendByte e b) s = .next { s with cur := some ⟨.serSendByte e b, 0, 0⟩ }))

/-- R264, R191: SER_SEND_BYTES hands the buffer to the attached channel, programmed and started with the clamped length; its
own checks come first, in their order, and then those of DMA_DO_TRANSFER: a clamped length above 65535 faults before any
effect, and a gated block faults at the first write, the owner being changed already (R351). -/
def Obligations.SendBytes : Prop :=
  ∀ (s : State) (e : SerIx) (b : Buf) (len : Word), s.Ready →
    (bufOwner s.bufs b.id ≠ .host → exec (.serSendBytes e b len) s = .next (refuse .bufferNotHostOwned s)) ∧
      (bufOwner s.bufs b.id = .host →
        ((s.eng e).mode ≠ .uart → exec (.serSendBytes e b len) s = .next (raise (.wrongMode e .serSendBytes) s)) ∧
          ((s.eng e).mode = .uart →
            ((s.eng e).dma = none → exec (.serSendBytes e b len) s = .next (raise (.noDmaChannel e) s)) ∧
              ∀ c p, (s.eng e).dma = some (c, p) →
                ((s.chan c).slot.isSome = true →
                    exec (.serSendBytes e b len) s = .next (raise (.transferOutstanding e) s)) ∧
                  ((s.chan c).slot = none →
                    (65535 < min len.toNat b.cap →
                        exec (.serSendBytes e b len) s = .next (raise (.lengthTooLarge c (min len.toNat b.cap)) s)) ∧
                      (min len.toNat b.cap ≤ 65535 → s.dmaGate = false →
                        exec (.serSendBytes e b len) s =
                          .next (raise (.clockGatedAccess (chanAddr c .psr)) (setOwner b (.chan c) s))) ∧
                      (min len.toNat b.cap ≤ 65535 → s.dmaGate = true →
                        exec (.serSendBytes e b len) s =
                          .next (emit (.ret .serSendBytes .unit)
                            ((setOwner b (.chan c) s).setChan c { s.chan c with
                              psr := BitVec.ofNat 32 p.code, mar := b.addr, tcr := BitVec.ofNat 16 (min len.toNat b.cap),
                              imr := (s.chan c).imr ||| 0b010#3, slot := some b, ten := true }))))))

/-- R265, R266: SER_HANDLE_IRQ with no byte waiting does nothing; in UART mode it delivers the byte to a UART client, drops
it with none, and faults on a client of the other shape; with no mode, or in SPI mode with no exchange, it drops the byte. -/
def Obligations.SerialHandler : Prop :=
  ∀ (s : State) (e : SerIx), s.AtEntry (.serHandleIrq e) → (s.eng e).clkOn = true →
    let t := s.setEng e { s.eng e with rxrdy := false }
    ((s.eng e).rxrdy = false → exec (.serHandleIrq e) s = .next { s with cur := none }) ∧
      ((s.eng e).rxrdy = true →
        ((s.eng e).mode = .unused ∨ ((s.eng e).mode = .spi ∧ (s.eng e).ctx = none) ∨
              ((s.eng e).mode = .uart ∧ (s.eng e).client = .noClient) →
            exec (.serHandleIrq e) s = .next { t with cur := none }) ∧
          ((s.eng e).mode = .uart →
            (∀ k, (s.eng e).client = .uartClient k →
                exec (.serHandleIrq e) s =
                  .next { t with cur := none, events := s.events ++ [.uartByte e (s.eng e).rhr] }) ∧
              ∀ k, (s.eng e).client = .spiClient k →
                exec (.serHandleIrq e) s = .next (raise (.clientShapeMismatch e) t)))

/-- R270 to R273: the four enables write their one enable bit and nothing else. -/
def Obligations.TransmitterAndReceiverEnables : Prop :=
  ∀ (s : State) (e : SerIx), s.Ready → (s.eng e).clkOn = true →
    exec (.serEnableTx e) s = .next (emit (.ret .serEnableTx .unit) (s.setEng e { s.eng e with txen := true })) ∧
      exec (.serDisableTx e) s = .next (emit (.ret .serDisableTx .unit) (s.setEng e { s.eng e with txen := false })) ∧
      exec (.serEnableRx e) s = .next (emit (.ret .serEnableRx .unit) (s.setEng e { s.eng e with rxen := true })) ∧
      exec (.serDisableRx e) s = .next (emit (.ret .serDisableRx .unit) (s.setEng e { s.eng e with rxen := false }))

/-! ## The serial engine: SPI -/

/-- R313, R314, R315: SER_READ_WRITE_BYTES on a valid request: the owners, the receive interrupt, both enables, chip-select
with its event, the first byte in THR, the context with its cursor at 0, and nothing else; on a full THR `keep` is the draw
of which byte is lost (R316). -/
def Obligations.ExchangeStart : Prop :=
  ∀ (s : State) (e : SerIx) (w : Buf) (r : Option Buf) (len : Word), s.Ready →
    bufOwner s.bufs w.id = .host → (∀ rb, r = some rb → bufOwner s.bufs rb.id = .host ∧ rb.id ≠ w.id) →
    (s.eng e).mode = .spi → (s.eng e).clkOn = true → (s.eng e).ctx = none →
    1 ≤ len.toNat → len.toNat ≤ w.cap → (∀ rb, r = some rb → len.toNat ≤ rb.cap) →
    let x := memRead s.mem w.addr.toNat
    let started (v : Byte) (n : Nat) : State :=
      { (s.advance n).setEng e { s.eng e with
            imr := (s.eng e).imr ||| 1, txen := true, rxen := true, csAsserted := true, thr := v, thrFull := true,
            ctx := some ⟨w, r, len.toNat, 0⟩ } with
        bufs := match r with
          | some rb => bufSet (bufSet s.bufs w (.ser e)) rb (.ser e)
          | none => bufSet s.bufs w (.ser e)
        events := s.events ++ (if (s.eng e).csAsserted then [] else [.csPin e false]) ++
          [.ret .serReadWriteBytes .unit] }
    ((s.eng e).thrFull = false → exec (.serReadWriteBytes e w r len) s = .next (started x 0)) ∧
      ((s.eng e).thrFull = true →
        ∃ keep : Bool, exec (.serReadWriteBytes e w r len) s = .next (started (if keep then x else (s.eng e).thr) 1))

/-- R313, R314, R356: the checks of SER_READ_WRITE_BYTES in their order, each before any effect. -/
def Obligations.ExchangeChecks : Prop :=
  ∀ (s : State) (e : SerIx) (w : Buf) (r : Option Buf) (len : Word), s.Ready →
    let owned := bufOwner s.bufs w.id = .host ∧ ∀ rb, r = some rb → bufOwner s.bufs rb.id = .host ∧ rb.id ≠ w.id
    let fits := 1 ≤ len.toNat ∧ len.toNat ≤ w.cap ∧ ∀ rb, r = some rb → len.toNat ≤ rb.cap
    (¬ owned → exec (.serReadWriteBytes e w r len) s = .next (refuse .bufferNotHostOwned s)) ∧
      (owned → (s.eng e).mode ≠ .spi →
        exec (.serReadWriteBytes e w r len) s = .next (raise (.wrongMode e .serReadWriteBytes) s)) ∧
      (owned → (s.eng e).mode = .spi → (s.eng e).ctx.isSome = true →
        exec (.serReadWriteBytes e w r len) s = .next (raise (.transferOutstanding e) s)) ∧
      (owned → (s.eng e).mode = .spi → (s.eng e).ctx = none → ¬ fits →
        exec (.serReadWriteBytes e w r len) s = .next (raise (.spiLengthInvalid e len) s))

/-- R320, R96: the receive step of an exchange. A received byte whose place lies in no buffer of the engine's faults, with
nothing stored. Else, before the last byte: the received byte goes to the read buffer at the cursor, or is discarded without
one, every other byte of memory reading as before; the cursor advances; and the next byte of the write buffer goes to THR, where
on a full one `keep` is the draw of which byte is lost (R282). If its place lies in no buffer of the engine's the step faults
there. -/
def Obligations.ExchangeMiddle : Prop :=
  ∀ (s : State) (e : SerIx) (x : SpiCtx), s.AtEntry (.serHandleIrq e) → (s.eng e).clkOn = true →
    (s.eng e).rxrdy = true → (s.eng e).mode = .spi → (s.eng e).ctx = some x →
    (∀ rb, x.r = some rb → ownsAddr s.bufs (.ser e) (rb.addr + BitVec.ofNat 32 x.cursor) = false →
      exec (.serHandleIrq e) s =
        .next (raise (.dmaOutOfBuffer (.ser e) (rb.addr + BitVec.ofNat 32 x.cursor))
          (s.setEng e { s.eng e with rxrdy := false }))) ∧
      ((∀ rb, x.r = some rb → ownsAddr s.bufs (.ser e) (rb.addr + BitVec.ofNat 32 x.cursor) = true) →
        x.cursor + 1 < x.len → Memory.wf s.mem = true →
        ∃ m : Mem, (x.r = none → m = s.mem) ∧
          (∀ rb, x.r = some rb →
            memRead m (rb.addr + BitVec.ofNat 32 x.cursor).toNat = (s.eng e).rhr ∧
              ∀ a, a ≠ (rb.addr + BitVec.ofNat 32 x.cursor).toNat → memRead m a = memRead s.mem a) ∧
          let a := x.w.addr + BitVec.ofNat 32 (x.cursor + 1)
          let y := { s.eng e with rxrdy := false, ctx := some { x with cursor := x.cursor + 1 } }
          (ownsAddr s.bufs (.ser e) a = false →
              exec (.serHandleIrq e) s =
                .next (raise (.dmaOutOfBuffer (.ser e) a) { s.setEng e y with mem := m })) ∧
            (ownsAddr s.bufs (.ser e) a = true → (s.eng e).thrFull = false →
              exec (.serHandleIrq e) s =
                .next { s.setEng e { y with thr := memRead m a.toNat, thrFull := true } with cur := none, mem := m }) ∧
            (ownsAddr s.bufs (.ser e) a = true → (s.eng e).thrFull = true →
              ∃ keep : Bool, exec (.serHandleIrq e) s =
                .next { (s.advance 1).setEng e { y with thr := if keep then memRead m a.toNat else (s.eng e).thr } with
                  cur := none, mem := m }))

/-- R320, R321, R315: the receive step of an exchange's last byte: the byte is stored or discarded, chip-select is released
with its event, both directions are disabled, both buffers go back to the host, and the client gets the one callback; with no
client, or one of the other shape, it faults. -/
def Obligations.ExchangeEnd : Prop :=
  ∀ (s : State) (e : SerIx) (x : SpiCtx), s.AtEntry (.serHandleIrq e) → (s.eng e).clkOn = true →
    (s.eng e).rxrdy = true → (s.eng e).mode = .spi → (s.eng e).ctx = some x → x.cursor = x.len - 1 →
    Memory.wf s.mem = true →
    (∀ rb, x.r = some rb → ownsAddr s.bufs (.ser e) (rb.addr + BitVec.ofNat 32 x.cursor) = true) →
    ∃ m : Mem, (x.r = none → m = s.mem) ∧
      (∀ rb, x.r = some rb →
        memRead m (rb.addr + BitVec.ofNat 32 x.cursor).toNat = (s.eng e).rhr ∧
          ∀ a, a ≠ (rb.addr + BitVec.ofNat 32 x.cursor).toNat → memRead m a = memRead s.mem a) ∧
      let t := { s.setEng e { s.eng e with
            rxrdy := false, ctx := none, csAsserted := false, txen := false, rxen := false } with
          cur := none
          mem := m
          bufs := match x.r with
            | some rb => bufSet (bufSet s.bufs x.w .host) rb .host
            | none => bufSet s.bufs x.w .host
          events := s.events ++ if (s.eng e).csAsserted then [.csPin e true] else [] }
      (∀ k, (s.eng e).client = .spiClient k →
          exec (.serHandleIrq e) s = .next (emit (.spiDone e x.w x.r x.len) t)) ∧
        ((s.eng e).client = .noClient → exec (.serHandleIrq e) s = .next (raise (.noClient e x.w.id) t)) ∧
        ∀ k, (s.eng e).client = .uartClient k → exec (.serHandleIrq e) s = .next (raise (.clientShapeMismatch e) t)

/-- R325 to R332: the accessors. Those of polarity and phase set or return the one bit of MR, whatever the mode, and change
nothing else; those of rate and chip-select return the fixed values, whatever they are, also with the clock off, and change
nothing. -/
def Obligations.SpiAccessors : Prop :=
  ∀ (s : State) (e : SerIx) (v : Bool) (rate : Word) (cs : Byte), s.Ready →
    let put (k : Nat) : Word := ((s.eng e).mr &&& ~~~((1 : Word) <<< k)) ||| ((if v then (1 : Word) else 0) <<< k)
    ((s.eng e).clkOn = true →
        exec (.spiSetClock e v) s = .next (emit (.ret .spiSetClock .unit) (s.setEng e { s.eng e with mr := put 16 })) ∧
          exec (.spiSetPhase e v) s = .next (emit (.ret .spiSetPhase .unit) (s.setEng e { s.eng e with mr := put 8 })) ∧
          exec (.spiGetClock e) s =
            .next (emit (.ret .spiGetClock (.word (if (s.eng e).mr.getLsbD 16 then 1 else 0))) s) ∧
          exec (.spiGetPhase e) s =
            .next (emit (.ret .spiGetPhase (.word (if (s.eng e).mr.getLsbD 8 then 1 else 0))) s)) ∧
      exec (.spiSetRate e rate) s = .next (emit (.ret .spiSetRate (.word Config.spiRateValue)) s) ∧
      exec (.spiGetRate e) s = .next (emit (.ret .spiGetRate (.word Config.spiRateValue)) s) ∧
      exec (.spiSetChipSelect e cs) s = .next (emit (.ret .spiSetChipSelect .unit) s) ∧
      exec (.spiGetChipSelect e) s =
        .next (emit (.ret .spiGetChipSelect (.word (Config.spiCsValue.zeroExtend 32))) s)

/-! ## When no turn is left -/

/-- R441, R243, R244, R425, in the model's form (log 30: the schedule's end means that the host and the environment give
nothing further, and which of the enabled steps is taken is a free choice). With no turn left and no agent's step enabled the
run ends by quiescence; with one enabled, some enabled step is taken. A completion that no client clears is dispatched again
after every return: where its dispatch is the only enabled step, two steps later the machine is as it was but for the draws
used. -/
def Obligations.UnscheduledSteps : Prop :=
  ∀ s : State, s.sched.booted = true → s.Running → s.sched.input = [] →
    let after (n : Nat) : State :=
      { s with sched := { s.sched with burst := none, extReq := false, draws := s.sched.draws + n } }
    let enabled (i : Instr) : Prop :=
      (∃ c, s.cur = some c ∧ i = c.op) ∨
        (∃ c : ChanIx, i = .irqDispatch (.dma c) ∧ s.cur = none ∧ s.dmaMasked.get c = false ∧
          (((s.chan c).tcr = 0 ∧ (s.chan c).imr.getLsbD 1 = true) ∨ (s.chan c).imr.getLsbD 0 = true)) ∨
        (∃ e : SerIx, i = .irqDispatch (.ser e) ∧ s.cur = none ∧ s.serMasked.get e = false ∧
          (((s.eng e).rxrdy = true ∧ (s.eng e).imr.getLsbD 0 = true) ∨
            ((s.eng e).txen = true ∧ (s.eng e).thrFull = false ∧ (s.eng e).imr.getLsbD 1 = true) ∨
            ((s.eng e).ovre = true ∧ (s.eng e).imr.getLsbD 5 = true))) ∨
        (∃ c p e, i = .evDmaStep c (Config.drawByte s.sched.draws) ∧ s.dmaGate = true ∧ (s.chan c).ten = true ∧
          (s.chan c).tcr ≠ 0 ∧ decodeSelector (s.chan c).psr = some p ∧ periphOf p = .engine e ∧ (s.eng e).clkOn = true ∧
          ((p.dir = .tx ∧ (s.eng e).txen = true ∧ (s.eng e).thrFull = false) ∨ (p.dir = .rx ∧ (s.eng e).rxrdy = true))) ∨
        (∃ e, i = .evSerLoad e ∧ (s.eng e).clkOn = true ∧ (s.eng e).thrFull = true ∧ (s.eng e).shift = none ∧
          (s.eng e).txen = true) ∨
        ∃ e, i = .evSerShift e (Config.drawByte s.sched.draws) ∧ (s.eng e).clkOn = true ∧ (s.eng e).shift.isSome = true
    ((∀ i, ¬ enabled i) → step s = .refused .quiescent) ∧
      ((∃ i, enabled i) → ∃ i, enabled i ∧ step s = exec i (after 1)) ∧
      ∀ c p, s.cur = none → (∀ i, enabled i ↔ i = .irqDispatch (.dma c)) → (s.chan c).client = none → s.dmaGate = true →
        decodeSelector (s.chan c).psr = some p → ∃ t, step s = .next t ∧ step t = .next (after 2)

/-! ## The shifter and the fault trap -/

/-- R281, R283, R284, R285: the shifter's steps when they are enabled. -/
def Obligations.ShifterSteps : Prop :=
  ∀ (s : State) (e : SerIx) (m : Byte), s.Running → (s.eng e).clkOn = true →
    let x := s.eng e
    let arrived (y : Ser) : Ser := { y with rhr := m, rxrdy := true, ovre := y.ovre || y.rxrdy }
    (x.mr.extractLsb' 0 4 = 0x0#4 ∨ x.mr.extractLsb' 0 4 = 0xE#4 →
        (x.thrFull = true → x.shift = none → x.txen = true →
            exec (.evSerLoad e) s = .next (s.setEng e { x with shift := some x.thr, thrFull := false })) ∧
          ∀ b, x.shift = some b →
            (x.mr.extractLsb' 0 4 = 0xE#4 ∧ x.rxen = true →
                exec (.evSerShift e m) s = .next (emit (.txLine e b) (s.setEng e (arrived { x with shift := none })))) ∧
              (¬ (x.mr.extractLsb' 0 4 = 0xE#4 ∧ x.rxen = true) →
                exec (.evSerShift e m) s = .next (emit (.txLine e b) (s.setEng e { x with shift := none })))) ∧
      (x.mr.extractLsb' 0 4 = 0x0#4 → x.rxen = true → exec (.evSerRxArrive e m) s = .next (s.setEng e (arrived x)))

/-- R280, R281, R283, R284: a shifter step that is not enabled leaves everything as it is, the model's form of "not enabled"
(DESIGN CHOICE, log 11; the rules say only when it steps); one that is, but for a serial mode
that is not modelled, is refused. -/
def Obligations.ShifterStops : Prop :=
  ∀ (s : State) (e : SerIx) (m : Byte), s.Running →
    let x := s.eng e
    let unmodelled := x.mr.extractLsb' 0 4 ≠ 0x0#4 ∧ x.mr.extractLsb' 0 4 ≠ 0xE#4
    (x.clkOn = false →
        exec (.evSerLoad e) s = .next s ∧ exec (.evSerShift e m) s = .next s ∧ exec (.evSerRxArrive e m) s = .next s) ∧
      (x.thrFull = false ∨ x.shift.isSome = true ∨ x.txen = false → exec (.evSerLoad e) s = .next s) ∧
      (x.shift = none → exec (.evSerShift e m) s = .next s) ∧
      (x.rxen = false ∨ x.mr.extractLsb' 0 4 = 0xE#4 → exec (.evSerRxArrive e m) s = .next s) ∧
      (x.clkOn = true → unmodelled →
        (x.thrFull = true → x.shift = none → x.txen = true →
            exec (.evSerLoad e) s = .next (refuse .unmodelledMode s)) ∧
          (x.shift.isSome = true → exec (.evSerShift e m) s = .next (refuse .unmodelledMode s)) ∧
          (x.rxen = true → exec (.evSerRxArrive e m) s = .next (refuse .unmodelledMode s)))

/-- R372, R351: EV_HARD_FAULT, at any point: some report is recorded and reported, the CPU agent is stopped, and nothing else
of the block changes. -/
def Obligations.HardFaultTrap : Prop :=
  ∀ s : State, s.Running →
    ∃ rep : HardFaultReport, exec .evHardFault s =
      .next { s.advance 1 with
        cur := none, fault := some (.hardFault rep), events := s.events ++ [.faultReport (.hardFault rep)] }

/-! ## Reset -/

/-- R70, R71, R72, R75, with what R73, R74, R76 and R77 give a value: the machine right after reset. The registers that
those rules leave to draws, and the byte in THR (log 5, log 6), are not stated. -/
def Obligations.ResetState : Prop :=
  let s := State.reset
  (s.cur = none ∧ s.fault = none ∧ s.refused = false ∧ s.events = []) ∧ (s.dmaCount = 0 ∧ s.dmaGate = false) ∧
    (∀ c, (s.chan c).enabled = false ∧ (s.chan c).client = none ∧ (s.chan c).slot = none ∧ (s.chan c).tcr = 0 ∧
      (s.chan c).ten = false ∧ (s.chan c).imr = 0 ∧ (s.chan c).mr = 0 ∧ chanIrq (s.chan c) = false ∧
      s.dmaMasked.get c = true) ∧
    (∀ e, (s.eng e).mode = .unused ∧ (s.eng e).client = .noClient ∧ (s.eng e).dma = none ∧ (s.eng e).ctx = none ∧
      (s.eng e).clkOn = false ∧ (s.eng e).mr = 0 ∧ (s.eng e).imr = 0 ∧ (s.eng e).brgr = 0 ∧ (s.eng e).ttgr = 0 ∧
      (s.eng e).txen = false ∧ (s.eng e).thrFull = false ∧ (s.eng e).shift = none ∧ (s.eng e).rxen = false ∧
      (s.eng e).rxrdy = false ∧ (s.eng e).ovre = false ∧ (s.eng e).csAsserted = false ∧ s.serMasked.get e = true) ∧
    ∀ n, bufOwner s.bufs n = .host

/-- The invariants below hold of the machine right after reset, and after its first step, which is the boot step of R412: every
serial line is unmasked, and nothing else of the block differs. That the boot is a step of the run is the model's choice
(log 18). -/
def Obligations.ResetMeetsInvariants : Prop :=
  let inv (s : State) : Prop := ClockInv s ∧ DataInv s ∧ OwnershipInv s ∧ BindInv s
  inv State.reset ∧
    ∃ t, step State.reset = .next t ∧ inv t ∧ (∀ e, t.serMasked.get e = false) ∧
      t = { State.reset with serMasked := t.serMasked, sched := t.sched }

/-! ## What every step keeps -/

/-- Data memory and the buffer table keep their canonical form (the model's own representation of R61 and R62). -/
def Obligations.CanonicalDataKept : Prop :=
  ∀ s s' : State, DataInv s → step s = .next s' → DataInv s'

/-- R65, R181: the counter is the number of enabled channels, at most 16; the gate is on exactly when it is not 0; a channel's
line is masked exactly when the channel is not enabled. R65 has the proviso that nothing outside the block calls
disable_clock(DMA_CLK): that no such call happens is the model's choice (DESIGN CHOICE, unsafe, log 25). -/
def Obligations.ClockInvariantKept : Prop :=
  ∀ s s' : State, ClockInv s → step s = .next s' → ClockInv s' ∧ s'.dmaCount ≤ 16

/-- R65, R66: a buffer in a slot is its channel's, and in no other slot; the buffers of an exchange in progress are its
engine's, which is in SPI mode, and the cursor stays inside them. `OwnershipInv` says so for every state of a run, with what
holds between the steps of the operation in progress. -/
def Obligations.OwnershipKept : Prop :=
  (∀ s s' : State, DataInv s → OwnershipInv s → step s = .next s' → OwnershipInv s') ∧
    ∀ (s : State) (c d : ChanIx) (a b : Buf), OwnershipInv s → (s.chan c).slot = some a → (s.chan d).slot = some b →
      a.id = b.id → c = d

/-- R269: a channel whose client is a serial engine is the channel that engine is attached to. -/
def Obligations.AttachmentKept : Prop :=
  ∀ s s' : State, BindInv s → step s = .next s' → BindInv s'

/-- R63, R33, R34: every step only adds to the event history; no step clears the fault record, changes a recorded fault, or
clears the refusal mark. -/
def Obligations.HistoryOnlyGrows : Prop :=
  ∀ s s' : State, step s = .next s' →
    (∃ evs, s'.events = s.events ++ evs) ∧ (∀ f, s.fault = some f → s'.fault = some f) ∧
      (s.refused = true → s'.refused = true)

/-- R258, R55, R49: no step takes an engine back to `Unused`, turns its clock off, or masks its line again once booted. -/
def Obligations.EngineStaysConfigured : Prop :=
  ∀ (s s' : State) (e : SerIx), step s = .next s' →
    ((s.eng e).mode ≠ .unused → (s'.eng e).mode ≠ .unused) ∧ ((s.eng e).clkOn = true → (s'.eng e).clkOn = true) ∧
      (s.serMasked.get e = false → s'.serMasked.get e = false)

/-- R96, R62, R103: a step changes a byte of memory only where it lies in a buffer that a channel or an engine owned before
the step: no byte outside every buffer, and none of a buffer of the host's. -/
def Obligations.MemoryIsolation : Prop :=
  ∀ (s s' : State) (a : Nat), step s = .next s' → memRead s'.mem a ≠ memRead s.mem a →
    ∃ (w : Word) (who : Owner), w.toNat = a ∧ who ≠ .host ∧ ownsAddr s.bufs who w = true

/-- R423, R45: once set, a channel's TEN is cleared by no instruction but a raw register write. -/
def Obligations.StartBitPersists : Prop :=
  ∀ (s s' : State) (c : ChanIx) (i : Instr), i.op ≠ .regWrite → i.op ≠ .regFieldSet → (s.chan c).ten = true →
    exec i s = .next s' → (s'.chan c).ten = true

/-- How the CPU agent's turns cut an operation into runs of accesses makes no difference while no other agent steps: `a`
accesses and then `b` come to the same state as `a + b`, for every host operation, started or in progress, whose run is not
refused. That a turn makes a bounded number of accesses, and `none` all of them, is the model's (DESIGN CHOICE, log 16): R97 and
R21 say what an access is and that hardware agents may step between any two. -/
def Obligations.TurnsCompose : Prop :=
  ∀ (s s1 : State) (i : Instr) (a b : Nat), i.op.hostMayIssue = true → s.Running →
    exec i (s.withBurst (some a)) = .next s1 → s1.cur.isSome = true → s1.refused = false →
    ∃ s2, exec i (s1.withBurst (some b)) = .next s2 ∧
      (s2.refused = false → exec i (s.withBurst (some (a + b))) = .next (s2.withBurst (some (a + b))))
end

