-- ==== Sys2Proof/Laws/State.lean ====
section
/-! SUPPORT. One lemma for each field of `State` and each named update, so that no later proof unfolds an update; and what a
channel or an engine is after each. -/

namespace Sys2Proof.Machine

section
variable (s : State) (c : ChanIx) (x : Chan)

@[simp] theorem setChan_cur : (s.setChan c x).cur = s.cur := rfl
@[simp] theorem setChan_fault : (s.setChan c x).fault = s.fault := rfl
@[simp] theorem setChan_refused : (s.setChan c x).refused = s.refused := rfl
@[simp] theorem setChan_dmaCount : (s.setChan c x).dmaCount = s.dmaCount := rfl
@[simp] theorem setChan_dmaGate : (s.setChan c x).dmaGate = s.dmaGate := rfl
@[simp] theorem setChan_ch : (s.setChan c x).ch = s.ch.set c.val x c.isLt := rfl
@[simp] theorem setChan_dmaMasked : (s.setChan c x).dmaMasked = s.dmaMasked := rfl
@[simp] theorem setChan_serMasked : (s.setChan c x).serMasked = s.serMasked := rfl
@[simp] theorem setChan_ser : (s.setChan c x).ser = s.ser := rfl
@[simp] theorem setChan_bufs : (s.setChan c x).bufs = s.bufs := rfl
@[simp] theorem setChan_mem : (s.setChan c x).mem = s.mem := rfl
@[simp] theorem setChan_events : (s.setChan c x).events = s.events := rfl
@[simp] theorem setChan_sched : (s.setChan c x).sched = s.sched := rfl
@[simp] theorem setChan_eng (e' : SerIx) : (s.setChan c x).eng e' = s.eng e' := rfl

end

section
variable (s : State) (e : SerIx) (x : Ser)

@[simp] theorem setEng_cur : (s.setEng e x).cur = s.cur := rfl
@[simp] theorem setEng_fault : (s.setEng e x).fault = s.fault := rfl
@[simp] theorem setEng_refused : (s.setEng e x).refused = s.refused := rfl
@[simp] theorem setEng_dmaCount : (s.setEng e x).dmaCount = s.dmaCount := rfl
@[simp] theorem setEng_dmaGate : (s.setEng e x).dmaGate = s.dmaGate := rfl
@[simp] theorem setEng_ch : (s.setEng e x).ch = s.ch := rfl
@[simp] theorem setEng_dmaMasked : (s.setEng e x).dmaMasked = s.dmaMasked := rfl
@[simp] theorem setEng_serMasked : (s.setEng e x).serMasked = s.serMasked := rfl
@[simp] theorem setEng_ser : (s.setEng e x).ser = s.ser.set e.val x e.isLt := rfl
@[simp] theorem setEng_bufs : (s.setEng e x).bufs = s.bufs := rfl
@[simp] theorem setEng_mem : (s.setEng e x).mem = s.mem := rfl
@[simp] theorem setEng_events : (s.setEng e x).events = s.events := rfl
@[simp] theorem setEng_sched : (s.setEng e x).sched = s.sched := rfl
@[simp] theorem setEng_chan (c' : ChanIx) : (s.setEng e x).chan c' = s.chan c' := rfl

end

section
variable (s : State) (ev : Event)

@[simp] theorem emit_cur : (emit ev s).cur = s.cur := rfl
@[simp] theorem emit_fault : (emit ev s).fault = s.fault := rfl
@[simp] theorem emit_refused : (emit ev s).refused = s.refused := rfl
@[simp] theorem emit_dmaCount : (emit ev s).dmaCount = s.dmaCount := rfl
@[simp] theorem emit_dmaGate : (emit ev s).dmaGate = s.dmaGate := rfl
@[simp] theorem emit_ch : (emit ev s).ch = s.ch := rfl
@[simp] theorem emit_dmaMasked : (emit ev s).dmaMasked = s.dmaMasked := rfl
@[simp] theorem emit_serMasked : (emit ev s).serMasked = s.serMasked := rfl
@[simp] theorem emit_ser : (emit ev s).ser = s.ser := rfl
@[simp] theorem emit_bufs : (emit ev s).bufs = s.bufs := rfl
@[simp] theorem emit_mem : (emit ev s).mem = s.mem := rfl
@[simp] theorem emit_events : (emit ev s).events = s.events ++ [ev] := rfl
@[simp] theorem emit_sched : (emit ev s).sched = s.sched := rfl
@[simp] theorem emit_chan (c' : ChanIx) : (emit ev s).chan c' = s.chan c' := rfl
@[simp] theorem emit_eng (e' : SerIx) : (emit ev s).eng e' = s.eng e' := rfl

end

section
variable (s : State) (n : Nat)

@[simp] theorem advance_cur : (s.advance n).cur = s.cur := rfl
@[simp] theorem advance_fault : (s.advance n).fault = s.fault := rfl
@[simp] theorem advance_refused : (s.advance n).refused = s.refused := rfl
@[simp] theorem advance_dmaCount : (s.advance n).dmaCount = s.dmaCount := rfl
@[simp] theorem advance_dmaGate : (s.advance n).dmaGate = s.dmaGate := rfl
@[simp] theorem advance_ch : (s.advance n).ch = s.ch := rfl
@[simp] theorem advance_dmaMasked : (s.advance n).dmaMasked = s.dmaMasked := rfl
@[simp] theorem advance_serMasked : (s.advance n).serMasked = s.serMasked := rfl
@[simp] theorem advance_ser : (s.advance n).ser = s.ser := rfl
@[simp] theorem advance_bufs : (s.advance n).bufs = s.bufs := rfl
@[simp] theorem advance_mem : (s.advance n).mem = s.mem := rfl
@[simp] theorem advance_events : (s.advance n).events = s.events := rfl
@[simp] theorem advance_sched : (s.advance n).sched = { s.sched with draws := s.sched.draws + n } := rfl
@[simp] theorem advance_chan (c' : ChanIx) : (s.advance n).chan c' = s.chan c' := rfl
@[simp] theorem advance_eng (e' : SerIx) : (s.advance n).eng e' = s.eng e' := rfl

end

section
variable (s : State) (f : FaultRec)

@[simp] theorem raise_cur : (raise f s).cur = none := rfl
@[simp] theorem raise_fault : (raise f s).fault = some f := rfl
@[simp] theorem raise_refused : (raise f s).refused = s.refused := rfl
@[simp] theorem raise_dmaCount : (raise f s).dmaCount = s.dmaCount := rfl
@[simp] theorem raise_dmaGate : (raise f s).dmaGate = s.dmaGate := rfl
@[simp] theorem raise_ch : (raise f s).ch = s.ch := rfl
@[simp] theorem raise_dmaMasked : (raise f s).dmaMasked = s.dmaMasked := rfl
@[simp] theorem raise_serMasked : (raise f s).serMasked = s.serMasked := rfl
@[simp] theorem raise_ser : (raise f s).ser = s.ser := rfl
@[simp] theorem raise_bufs : (raise f s).bufs = s.bufs := rfl
@[simp] theorem raise_mem : (raise f s).mem = s.mem := rfl
@[simp] theorem raise_events : (raise f s).events = s.events ++ [.faultReport f] := rfl
@[simp] theorem raise_sched : (raise f s).sched = s.sched := rfl
@[simp] theorem raise_chan (c' : ChanIx) : (raise f s).chan c' = s.chan c' := rfl
@[simp] theorem raise_eng (e' : SerIx) : (raise f s).eng e' = s.eng e' := rfl

end

section
variable (s : State) (r : RefuseReason)

@[simp] theorem refuse_cur : (refuse r s).cur = s.cur := rfl
@[simp] theorem refuse_fault : (refuse r s).fault = s.fault := rfl
@[simp] theorem refuse_refused : (refuse r s).refused = true := rfl
@[simp] theorem refuse_dmaCount : (refuse r s).dmaCount = s.dmaCount := rfl
@[simp] theorem refuse_dmaGate : (refuse r s).dmaGate = s.dmaGate := rfl
@[simp] theorem refuse_ch : (refuse r s).ch = s.ch := rfl
@[simp] theorem refuse_dmaMasked : (refuse r s).dmaMasked = s.dmaMasked := rfl
@[simp] theorem refuse_serMasked : (refuse r s).serMasked = s.serMasked := rfl
@[simp] theorem refuse_ser : (refuse r s).ser = s.ser := rfl
@[simp] theorem refuse_bufs : (refuse r s).bufs = s.bufs := rfl
@[simp] theorem refuse_mem : (refuse r s).mem = s.mem := rfl
@[simp] theorem refuse_events : (refuse r s).events = s.events := rfl
@[simp] theorem refuse_sched : (refuse r s).sched = { s.sched with why := some r } := rfl
@[simp] theorem refuse_chan (c' : ChanIx) : (refuse r s).chan c' = s.chan c' := rfl
@[simp] theorem refuse_eng (e' : SerIx) : (refuse r s).eng e' = s.eng e' := rfl

end

section
variable (s : State) (v : Bool)

@[simp] theorem setClockDma_cur : (setClock .dma v s).cur = s.cur := rfl
@[simp] theorem setClockDma_fault : (setClock .dma v s).fault = s.fault := rfl
@[simp] theorem setClockDma_refused : (setClock .dma v s).refused = s.refused := rfl
@[simp] theorem setClockDma_dmaCount : (setClock .dma v s).dmaCount = s.dmaCount := rfl
@[simp] theorem setClockDma_dmaGate : (setClock .dma v s).dmaGate = v := rfl
@[simp] theorem setClockDma_ch : (setClock .dma v s).ch = s.ch := rfl
@[simp] theorem setClockDma_dmaMasked : (setClock .dma v s).dmaMasked = s.dmaMasked := rfl
@[simp] theorem setClockDma_serMasked : (setClock .dma v s).serMasked = s.serMasked := rfl
@[simp] theorem setClockDma_ser : (setClock .dma v s).ser = s.ser := rfl
@[simp] theorem setClockDma_bufs : (setClock .dma v s).bufs = s.bufs := rfl
@[simp] theorem setClockDma_mem : (setClock .dma v s).mem = s.mem := rfl
@[simp] theorem setClockDma_events : (setClock .dma v s).events = s.events := rfl
@[simp] theorem setClockDma_sched : (setClock .dma v s).sched = s.sched := rfl
@[simp] theorem setClockDma_chan (c' : ChanIx) : (setClock .dma v s).chan c' = s.chan c' := rfl
@[simp] theorem setClockDma_eng (e' : SerIx) : (setClock .dma v s).eng e' = s.eng e' := rfl

end

section
variable (s : State) (e : SerIx) (v : Bool)

@[simp] theorem setClockSer_cur : (setClock (.ser e) v s).cur = s.cur := rfl
@[simp] theorem setClockSer_fault : (setClock (.ser e) v s).fault = s.fault := rfl
@[simp] theorem setClockSer_refused : (setClock (.ser e) v s).refused = s.refused := rfl
@[simp] theorem setClockSer_dmaCount : (setClock (.ser e) v s).dmaCount = s.dmaCount := rfl
@[simp] theorem setClockSer_dmaGate : (setClock (.ser e) v s).dmaGate = s.dmaGate := rfl
@[simp] theorem setClockSer_ch : (setClock (.ser e) v s).ch = s.ch := rfl
@[simp] theorem setClockSer_dmaMasked : (setClock (.ser e) v s).dmaMasked = s.dmaMasked := rfl
@[simp] theorem setClockSer_serMasked : (setClock (.ser e) v s).serMasked = s.serMasked := rfl
@[simp] theorem setClockSer_ser : (setClock (.ser e) v s).ser = s.ser.set e.val { s.eng e with clkOn := v } e.isLt := rfl
@[simp] theorem setClockSer_bufs : (setClock (.ser e) v s).bufs = s.bufs := rfl
@[simp] theorem setClockSer_mem : (setClock (.ser e) v s).mem = s.mem := rfl
@[simp] theorem setClockSer_events : (setClock (.ser e) v s).events = s.events := rfl
@[simp] theorem setClockSer_sched : (setClock (.ser e) v s).sched = s.sched := rfl
@[simp] theorem setClockSer_chan (c' : ChanIx) : (setClock (.ser e) v s).chan c' = s.chan c' := rfl

end

section
variable (s : State) (c : ChanIx) (v : Bool)

@[simp] theorem setMaskDma_cur : (setMask (.dma c) v s).cur = s.cur := rfl
@[simp] theorem setMaskDma_fault : (setMask (.dma c) v s).fault = s.fault := rfl
@[simp] theorem setMaskDma_refused : (setMask (.dma c) v s).refused = s.refused := rfl
@[simp] theorem setMaskDma_dmaCount : (setMask (.dma c) v s).dmaCount = s.dmaCount := rfl
@[simp] theorem setMaskDma_dmaGate : (setMask (.dma c) v s).dmaGate = s.dmaGate := rfl
@[simp] theorem setMaskDma_ch : (setMask (.dma c) v s).ch = s.ch := rfl
@[simp] theorem setMaskDma_dmaMasked : (setMask (.dma c) v s).dmaMasked = s.dmaMasked.set c.val v c.isLt := rfl
@[simp] theorem setMaskDma_serMasked : (setMask (.dma c) v s).serMasked = s.serMasked := rfl
@[simp] theorem setMaskDma_ser : (setMask (.dma c) v s).ser = s.ser := rfl
@[simp] theorem setMaskDma_bufs : (setMask (.dma c) v s).bufs = s.bufs := rfl
@[simp] theorem setMaskDma_mem : (setMask (.dma c) v s).mem = s.mem := rfl
@[simp] theorem setMaskDma_events : (setMask (.dma c) v s).events = s.events := rfl
@[simp] theorem setMaskDma_sched : (setMask (.dma c) v s).sched = s.sched := rfl
@[simp] theorem setMaskDma_chan (c' : ChanIx) : (setMask (.dma c) v s).chan c' = s.chan c' := rfl
@[simp] theorem setMaskDma_eng (e' : SerIx) : (setMask (.dma c) v s).eng e' = s.eng e' := rfl

end

section
variable (s : State) (e : SerIx) (v : Bool)

@[simp] theorem setMaskSer_cur : (setMask (.ser e) v s).cur = s.cur := rfl
@[simp] theorem setMaskSer_fault : (setMask (.ser e) v s).fault = s.fault := rfl
@[simp] theorem setMaskSer_refused : (setMask (.ser e) v s).refused = s.refused := rfl
@[simp] theorem setMaskSer_dmaCount : (setMask (.ser e) v s).dmaCount = s.dmaCount := rfl
@[simp] theorem setMaskSer_dmaGate : (setMask (.ser e) v s).dmaGate = s.dmaGate := rfl
@[simp] theorem setMaskSer_ch : (setMask (.ser e) v s).ch = s.ch := rfl
@[simp] theorem setMaskSer_dmaMasked : (setMask (.ser e) v s).dmaMasked = s.dmaMasked := rfl
@[simp] theorem setMaskSer_serMasked : (setMask (.ser e) v s).serMasked = s.serMasked.set e.val v e.isLt := rfl
@[simp] theorem setMaskSer_ser : (setMask (.ser e) v s).ser = s.ser := rfl
@[simp] theorem setMaskSer_bufs : (setMask (.ser e) v s).bufs = s.bufs := rfl
@[simp] theorem setMaskSer_mem : (setMask (.ser e) v s).mem = s.mem := rfl
@[simp] theorem setMaskSer_events : (setMask (.ser e) v s).events = s.events := rfl
@[simp] theorem setMaskSer_sched : (setMask (.ser e) v s).sched = s.sched := rfl
@[simp] theorem setMaskSer_chan (c' : ChanIx) : (setMask (.ser e) v s).chan c' = s.chan c' := rfl
@[simp] theorem setMaskSer_eng (e' : SerIx) : (setMask (.ser e) v s).eng e' = s.eng e' := rfl

end

section
variable (s : State) (b : Buf) (o : Owner)

@[simp] theorem setOwner_cur : (setOwner b o s).cur = s.cur := rfl
@[simp] theorem setOwner_fault : (setOwner b o s).fault = s.fault := rfl
@[simp] theorem setOwner_refused : (setOwner b o s).refused = s.refused := rfl
@[simp] theorem setOwner_dmaCount : (setOwner b o s).dmaCount = s.dmaCount := rfl
@[simp] theorem setOwner_dmaGate : (setOwner b o s).dmaGate = s.dmaGate := rfl
@[simp] theorem setOwner_ch : (setOwner b o s).ch = s.ch := rfl
@[simp] theorem setOwner_dmaMasked : (setOwner b o s).dmaMasked = s.dmaMasked := rfl
@[simp] theorem setOwner_serMasked : (setOwner b o s).serMasked = s.serMasked := rfl
@[simp] theorem setOwner_ser : (setOwner b o s).ser = s.ser := rfl
@[simp] theorem setOwner_bufs : (setOwner b o s).bufs = bufSet s.bufs b o := rfl
@[simp] theorem setOwner_mem : (setOwner b o s).mem = s.mem := rfl
@[simp] theorem setOwner_events : (setOwner b o s).events = s.events := rfl
@[simp] theorem setOwner_sched : (setOwner b o s).sched = s.sched := rfl
@[simp] theorem setOwner_chan (c' : ChanIx) : (setOwner b o s).chan c' = s.chan c' := rfl
@[simp] theorem setOwner_eng (e' : SerIx) : (setOwner b o s).eng e' = s.eng e' := rfl

end

section
variable (s : State) (l : Line)

@[simp] theorem trapEntry_cur : (trapEntry l s).cur = some ⟨lineHandler l, 0, 0⟩ := rfl
@[simp] theorem trapEntry_fault : (trapEntry l s).fault = s.fault := rfl
@[simp] theorem trapEntry_refused : (trapEntry l s).refused = s.refused := rfl
@[simp] theorem trapEntry_dmaCount : (trapEntry l s).dmaCount = s.dmaCount := rfl
@[simp] theorem trapEntry_dmaGate : (trapEntry l s).dmaGate = s.dmaGate := rfl
@[simp] theorem trapEntry_ch : (trapEntry l s).ch = s.ch := rfl
@[simp] theorem trapEntry_dmaMasked : (trapEntry l s).dmaMasked = s.dmaMasked := rfl
@[simp] theorem trapEntry_serMasked : (trapEntry l s).serMasked = s.serMasked := rfl
@[simp] theorem trapEntry_ser : (trapEntry l s).ser = s.ser := rfl
@[simp] theorem trapEntry_bufs : (trapEntry l s).bufs = s.bufs := rfl
@[simp] theorem trapEntry_mem : (trapEntry l s).mem = s.mem := rfl
@[simp] theorem trapEntry_events : (trapEntry l s).events = s.events := rfl
@[simp] theorem trapEntry_sched : (trapEntry l s).sched = s.sched := rfl
@[simp] theorem trapEntry_chan (c' : ChanIx) : (trapEntry l s).chan c' = s.chan c' := rfl
@[simp] theorem trapEntry_eng (e' : SerIx) : (trapEntry l s).eng e' = s.eng e' := rfl

end

section
variable (s : State) (c : Option Cur)

@[simp] theorem setCur_cur : (setCur c s).cur = c := rfl
@[simp] theorem setCur_fault : (setCur c s).fault = s.fault := rfl
@[simp] theorem setCur_refused : (setCur c s).refused = s.refused := rfl
@[simp] theorem setCur_dmaCount : (setCur c s).dmaCount = s.dmaCount := rfl
@[simp] theorem setCur_dmaGate : (setCur c s).dmaGate = s.dmaGate := rfl
@[simp] theorem setCur_ch : (setCur c s).ch = s.ch := rfl
@[simp] theorem setCur_dmaMasked : (setCur c s).dmaMasked = s.dmaMasked := rfl
@[simp] theorem setCur_serMasked : (setCur c s).serMasked = s.serMasked := rfl
@[simp] theorem setCur_ser : (setCur c s).ser = s.ser := rfl
@[simp] theorem setCur_bufs : (setCur c s).bufs = s.bufs := rfl
@[simp] theorem setCur_mem : (setCur c s).mem = s.mem := rfl
@[simp] theorem setCur_events : (setCur c s).events = s.events := rfl
@[simp] theorem setCur_sched : (setCur c s).sched = s.sched := rfl
@[simp] theorem setCur_chan (c' : ChanIx) : (setCur c s).chan c' = s.chan c' := rfl
@[simp] theorem setCur_eng (e' : SerIx) : (setCur c s).eng e' = s.eng e' := rfl

end

section
variable (s : State)

@[simp] theorem finish_cur : (finish s).cur = none := rfl
@[simp] theorem finish_fault : (finish s).fault = s.fault := rfl
@[simp] theorem finish_refused : (finish s).refused = s.refused := rfl
@[simp] theorem finish_dmaCount : (finish s).dmaCount = s.dmaCount := rfl
@[simp] theorem finish_dmaGate : (finish s).dmaGate = s.dmaGate := rfl
@[simp] theorem finish_ch : (finish s).ch = s.ch := rfl
@[simp] theorem finish_dmaMasked : (finish s).dmaMasked = s.dmaMasked := rfl
@[simp] theorem finish_serMasked : (finish s).serMasked = s.serMasked := rfl
@[simp] theorem finish_ser : (finish s).ser = s.ser := rfl
@[simp] theorem finish_bufs : (finish s).bufs = s.bufs := rfl
@[simp] theorem finish_mem : (finish s).mem = s.mem := rfl
@[simp] theorem finish_events : (finish s).events = s.events := rfl
@[simp] theorem finish_sched : (finish s).sched = s.sched := rfl
@[simp] theorem finish_chan (c' : ChanIx) : (finish s).chan c' = s.chan c' := rfl
@[simp] theorem finish_eng (e' : SerIx) : (finish s).eng e' = s.eng e' := rfl

end

section
variable (s : State) (rest : List Turn)

@[simp] theorem popTurn_cur : (s.popTurn rest).cur = s.cur := rfl
@[simp] theorem popTurn_fault : (s.popTurn rest).fault = s.fault := rfl
@[simp] theorem popTurn_refused : (s.popTurn rest).refused = s.refused := rfl
@[simp] theorem popTurn_dmaCount : (s.popTurn rest).dmaCount = s.dmaCount := rfl
@[simp] theorem popTurn_dmaGate : (s.popTurn rest).dmaGate = s.dmaGate := rfl
@[simp] theorem popTurn_ch : (s.popTurn rest).ch = s.ch := rfl
@[simp] theorem popTurn_dmaMasked : (s.popTurn rest).dmaMasked = s.dmaMasked := rfl
@[simp] theorem popTurn_serMasked : (s.popTurn rest).serMasked = s.serMasked := rfl
@[simp] theorem popTurn_ser : (s.popTurn rest).ser = s.ser := rfl
@[simp] theorem popTurn_bufs : (s.popTurn rest).bufs = s.bufs := rfl
@[simp] theorem popTurn_mem : (s.popTurn rest).mem = s.mem := rfl
@[simp] theorem popTurn_events : (s.popTurn rest).events = s.events := rfl
@[simp] theorem popTurn_sched : (s.popTurn rest).sched = { s.sched with input := rest } := rfl
@[simp] theorem popTurn_chan (c' : ChanIx) : (s.popTurn rest).chan c' = s.chan c' := rfl
@[simp] theorem popTurn_eng (e' : SerIx) : (s.popTurn rest).eng e' = s.eng e' := rfl

end

section
variable (s : State) (b : Option Nat)

@[simp] theorem withBurst_cur : (s.withBurst b).cur = s.cur := rfl
@[simp] theorem withBurst_fault : (s.withBurst b).fault = s.fault := rfl
@[simp] theorem withBurst_refused : (s.withBurst b).refused = s.refused := rfl
@[simp] theorem withBurst_dmaCount : (s.withBurst b).dmaCount = s.dmaCount := rfl
@[simp] theorem withBurst_dmaGate : (s.withBurst b).dmaGate = s.dmaGate := rfl
@[simp] theorem withBurst_ch : (s.withBurst b).ch = s.ch := rfl
@[simp] theorem withBurst_dmaMasked : (s.withBurst b).dmaMasked = s.dmaMasked := rfl
@[simp] theorem withBurst_serMasked : (s.withBurst b).serMasked = s.serMasked := rfl
@[simp] theorem withBurst_ser : (s.withBurst b).ser = s.ser := rfl
@[simp] theorem withBurst_bufs : (s.withBurst b).bufs = s.bufs := rfl
@[simp] theorem withBurst_mem : (s.withBurst b).mem = s.mem := rfl
@[simp] theorem withBurst_events : (s.withBurst b).events = s.events := rfl
@[simp] theorem withBurst_sched : (s.withBurst b).sched = { s.sched with burst := b } := rfl
@[simp] theorem withBurst_chan (c' : ChanIx) : (s.withBurst b).chan c' = s.chan c' := rfl
@[simp] theorem withBurst_eng (e' : SerIx) : (s.withBurst b).eng e' = s.eng e' := rfl

end

section
variable (s : State) (q : Bool)

@[simp] theorem withExtReq_cur : (s.withExtReq q).cur = s.cur := rfl
@[simp] theorem withExtReq_fault : (s.withExtReq q).fault = s.fault := rfl
@[simp] theorem withExtReq_refused : (s.withExtReq q).refused = s.refused := rfl
@[simp] theorem withExtReq_dmaCount : (s.withExtReq q).dmaCount = s.dmaCount := rfl
@[simp] theorem withExtReq_dmaGate : (s.withExtReq q).dmaGate = s.dmaGate := rfl
@[simp] theorem withExtReq_ch : (s.withExtReq q).ch = s.ch := rfl
@[simp] theorem withExtReq_dmaMasked : (s.withExtReq q).dmaMasked = s.dmaMasked := rfl
@[simp] theorem withExtReq_serMasked : (s.withExtReq q).serMasked = s.serMasked := rfl
@[simp] theorem withExtReq_ser : (s.withExtReq q).ser = s.ser := rfl
@[simp] theorem withExtReq_bufs : (s.withExtReq q).bufs = s.bufs := rfl
@[simp] theorem withExtReq_mem : (s.withExtReq q).mem = s.mem := rfl
@[simp] theorem withExtReq_events : (s.withExtReq q).events = s.events := rfl
@[simp] theorem withExtReq_sched : (s.withExtReq q).sched = { s.sched with extReq := q } := rfl
@[simp] theorem withExtReq_chan (c' : ChanIx) : (s.withExtReq q).chan c' = s.chan c' := rfl
@[simp] theorem withExtReq_eng (e' : SerIx) : (s.withExtReq q).eng e' = s.eng e' := rfl

end

section
variable (s : State) (t : Turn)

@[simp] theorem pushTurn_cur : (s.pushTurn t).cur = s.cur := rfl
@[simp] theorem pushTurn_fault : (s.pushTurn t).fault = s.fault := rfl
@[simp] theorem pushTurn_refused : (s.pushTurn t).refused = s.refused := rfl
@[simp] theorem pushTurn_dmaCount : (s.pushTurn t).dmaCount = s.dmaCount := rfl
@[simp] theorem pushTurn_dmaGate : (s.pushTurn t).dmaGate = s.dmaGate := rfl
@[simp] theorem pushTurn_ch : (s.pushTurn t).ch = s.ch := rfl
@[simp] theorem pushTurn_dmaMasked : (s.pushTurn t).dmaMasked = s.dmaMasked := rfl
@[simp] theorem pushTurn_serMasked : (s.pushTurn t).serMasked = s.serMasked := rfl
@[simp] theorem pushTurn_ser : (s.pushTurn t).ser = s.ser := rfl
@[simp] theorem pushTurn_bufs : (s.pushTurn t).bufs = s.bufs := rfl
@[simp] theorem pushTurn_mem : (s.pushTurn t).mem = s.mem := rfl
@[simp] theorem pushTurn_events : (s.pushTurn t).events = s.events := rfl
@[simp] theorem pushTurn_sched : (s.pushTurn t).sched = { s.sched with input := t :: s.sched.input } := rfl
@[simp] theorem pushTurn_chan (c' : ChanIx) : (s.pushTurn t).chan c' = s.chan c' := rfl
@[simp] theorem pushTurn_eng (e' : SerIx) : (s.pushTurn t).eng e' = s.eng e' := rfl

end

section
variable (s : State)

@[simp] theorem boot_cur : (boot s).cur = s.cur := rfl
@[simp] theorem boot_fault : (boot s).fault = s.fault := rfl
@[simp] theorem boot_refused : (boot s).refused = s.refused := rfl
@[simp] theorem boot_dmaCount : (boot s).dmaCount = s.dmaCount := rfl
@[simp] theorem boot_dmaGate : (boot s).dmaGate = s.dmaGate := rfl
@[simp] theorem boot_ch : (boot s).ch = s.ch := rfl
@[simp] theorem boot_dmaMasked : (boot s).dmaMasked = s.dmaMasked := rfl
@[simp] theorem boot_serMasked : (boot s).serMasked = Vector.replicate Config.nSer false := rfl
@[simp] theorem boot_ser : (boot s).ser = s.ser := rfl
@[simp] theorem boot_bufs : (boot s).bufs = s.bufs := rfl
@[simp] theorem boot_mem : (boot s).mem = s.mem := rfl
@[simp] theorem boot_events : (boot s).events = s.events := rfl
@[simp] theorem boot_sched : (boot s).sched = { s.sched with booted := true } := rfl
@[simp] theorem boot_chan (c' : ChanIx) : (boot s).chan c' = s.chan c' := rfl
@[simp] theorem boot_eng (e' : SerIx) : (boot s).eng e' = s.eng e' := rfl

end

/-- A channel after a channel is replaced. -/
theorem setChan_chan (s : State) (c c' : ChanIx) (x : Chan) :
    (s.setChan c x).chan c' = if c' = c then x else s.chan c' := by
  simp only [State.chan, State.setChan, Vector.get_eq_getElem, Vector.getElem_set]
  by_cases h : c' = c
  · simp [h]
  · have h' : ¬ c.val = c'.val := fun q => h (Fin.ext q.symm)
    simp [h, h']

@[simp] theorem setChan_chan_same (s : State) (c : ChanIx) (x : Chan) : (s.setChan c x).chan c = x := by
  simp [setChan_chan]

@[simp] theorem setChan_chan_other (s : State) {c c' : ChanIx} (x : Chan) (h : c' ≠ c) :
    (s.setChan c x).chan c' = s.chan c' := by
  simp [setChan_chan, h]

@[simp] theorem setChan_setChan (s : State) (c : ChanIx) (x y : Chan) : (s.setChan c x).setChan c y = s.setChan c y := by
  simp [State.setChan]

/-- An engine after an engine is replaced. -/
theorem setEng_eng (s : State) (e e' : SerIx) (x : Ser) :
    (s.setEng e x).eng e' = if e' = e then x else s.eng e' := by
  simp only [State.eng, State.setEng, Vector.get_eq_getElem, Vector.getElem_set]
  by_cases h : e' = e
  · simp [h]
  · have h' : ¬ e.val = e'.val := fun q => h (Fin.ext q.symm)
    simp [h, h']

@[simp] theorem setEng_eng_same (s : State) (e : SerIx) (x : Ser) : (s.setEng e x).eng e = x := by
  simp [setEng_eng]

@[simp] theorem setEng_eng_other (s : State) {e e' : SerIx} (x : Ser) (h : e' ≠ e) :
    (s.setEng e x).eng e' = s.eng e' := by
  simp [setEng_eng, h]

@[simp] theorem setEng_setEng (s : State) (e : SerIx) (x y : Ser) : (s.setEng e x).setEng e y = s.setEng e y := by
  simp [State.setEng]

/-- Replacing a channel by itself changes nothing. -/
@[simp] theorem setChan_self (s : State) (c : ChanIx) : s.setChan c (s.chan c) = s := by
  simp [State.setChan, State.chan, Vector.get_eq_getElem]

/-- Replacing an engine by itself changes nothing. -/
@[simp] theorem setEng_self (s : State) (e : SerIx) : s.setEng e (s.eng e) = s := by
  simp [State.setEng, State.eng, Vector.get_eq_getElem]

/-- Two states are equal when their fields are, the channels and the engines compared one by one. -/
theorem state_ext {s t : State} (h1 : s.cur = t.cur) (h2 : s.fault = t.fault) (h3 : s.refused = t.refused)
    (h4 : s.dmaCount = t.dmaCount) (h5 : s.dmaGate = t.dmaGate) (h6 : ∀ c, s.chan c = t.chan c)
    (h7 : s.dmaMasked = t.dmaMasked) (h8 : s.serMasked = t.serMasked) (h9 : ∀ e, s.eng e = t.eng e)
    (h10 : s.bufs = t.bufs) (h11 : s.mem = t.mem) (h12 : s.events = t.events) (h13 : s.sched = t.sched) : s = t := by
  have h6' : s.ch = t.ch := by
    apply Vector.ext
    intro i hi
    simpa [State.chan, Vector.get_eq_getElem] using h6 ⟨i, hi⟩
  have h9' : s.ser = t.ser := by
    apply Vector.ext
    intro i hi
    simpa [State.eng, Vector.get_eq_getElem] using h9 ⟨i, hi⟩
  cases s
  cases t
  simp_all

/-- The engines when one's clock is switched. -/
theorem setClockSer_eng (s : State) (e e' : SerIx) (v : Bool) :
    (setClock (.ser e) v s).eng e' = if e' = e then { s.eng e with clkOn := v } else s.eng e' :=
  setEng_eng s e e' _

@[simp] theorem setClockSer_eng_same (s : State) (e : SerIx) (v : Bool) :
    (setClock (.ser e) v s).eng e = { s.eng e with clkOn := v } := by
  simp [setClockSer_eng]

section
variable (s : State) (o : Option Cur)

@[simp] theorem setChan_setCur (c : ChanIx) (x : Chan) : (setCur o s).setChan c x = setCur o (s.setChan c x) := rfl
@[simp] theorem setEng_setCur (e : SerIx) (x : Ser) : (setCur o s).setEng e x = setCur o (s.setEng e x) := rfl
@[simp] theorem emit_setCur (ev : Event) : emit ev (setCur o s) = setCur o (emit ev s) := rfl
@[simp] theorem advance_setCur (n : Nat) : (setCur o s).advance n = setCur o (s.advance n) := rfl
@[simp] theorem refuse_setCur (r : RefuseReason) : refuse r (setCur o s) = setCur o (refuse r s) := rfl
@[simp] theorem setOwner_setCur (b : Buf) (w : Owner) : setOwner b w (setCur o s) = setCur o (setOwner b w s) := rfl
@[simp] theorem raise_setCur (f : FaultRec) : raise f (setCur o s) = raise f s := rfl
@[simp] theorem finish_setCur : finish (setCur o s) = finish s := rfl
@[simp] theorem setCur_setCur (p : Option Cur) : setCur p (setCur o s) = setCur p s := rfl

@[simp] theorem giveBack_setCur (r : Option Buf) : giveBack r (setCur o s) = setCur o (giveBack r s) := by
  cases r <;> rfl

@[simp] theorem setOwners_setCur (w : Buf) (r : Option Buf) (a : Owner) :
    setOwners w r a (setCur o s) = setCur o (setOwners w r a s) := by
  cases r <;> rfl

/-- An operation that ends where none was in progress changes nothing by ending. -/
theorem finish_of_idle {s : State} (h : s.cur = none) : finish s = s := by
  cases s
  simp only at h
  subst h
  rfl

end

/-- `giveBack` as an update of the buffer table alone. -/
theorem giveBack_eq (r : Option Buf) (s : State) :
    giveBack r s = { s with bufs := match r with | some b => bufSet s.bufs b .host | none => s.bufs } := by
  cases r <;> rfl

/-- `setOwners` as an update of the buffer table alone. -/
theorem setOwners_eq (w : Buf) (r : Option Buf) (o : Owner) (s : State) :
    setOwners w r o s =
      { s with bufs := match r with | some b => bufSet (bufSet s.bufs w o) b o | none => bufSet s.bufs w o } := by
  cases r <;> rfl

end Sys2Proof.Machine
end

