-- ==== Sys2Proof/Laws/Access.lean ====
section
/-! SUPPORT. The registers at their addresses, and the one thing each access can do: a value and an effect, a fault, or a
refusal. -/

namespace Sys2Proof.Machine

/-- Every channel register is at its address (R38, R94). -/
@[simp] theorem regAt_chanAddr (c : ChanIx) (r : ChanReg) : regAt (chanAddr c r) = some (.chan c r) := by
  cases r <;> revert c <;> decide

/-- Every serial register is at its address (R50, R94). -/
@[simp] theorem regAt_serAddr (e : SerIx) (r : SerReg) : regAt (serAddr e r) = some (.ser e r) := by
  cases r <;> revert e <;> decide

/-- A read of a modelled register whose clock is on. -/
theorem regRead_done {a : Word} {r : RegRef} {s : State} (h : regAt a = some r) (hc : clocked s r = true) :
    regRead a s = .done (regValue r s) (regReadEffect r s) := by
  simp [regRead, h, hc]

/-- A write to a modelled register whose clock is on. -/
theorem regWrite_done {a v : Word} {r : RegRef} {s : State} (h : regAt a = some r) (hc : clocked s r = true) :
    regWrite a v s = .done () (regWriteEffect r v s) := by
  simp [regWrite, h, hc]

/-- All that a read can do: it is made, it faults on a gated block, or it is refused. -/
theorem regRead_cases (a : Word) (s : State) :
    (∃ r, regAt a = some r ∧ clocked s r = true ∧ regRead a s = .done (regValue r s) (regReadEffect r s)) ∨
      (∃ r, regAt a = some r ∧ clocked s r = false ∧ regRead a s = .stop (raise (.clockGatedAccess a) s)) ∨
      (regAt a = none ∧ regRead a s = .stop (refuse .unmodelledRegister s)) := by
  cases h : regAt a with
  | none => simp [regRead, h]
  | some r => cases hc : clocked s r <;> simp [regRead, h, hc]

/-- All that a write can do: it is made, it faults on a gated block, or it is refused. -/
theorem regWrite_cases (a v : Word) (s : State) :
    (∃ r, regAt a = some r ∧ clocked s r = true ∧ regWrite a v s = .done () (regWriteEffect r v s)) ∨
      (∃ r, regAt a = some r ∧ clocked s r = false ∧ regWrite a v s = .stop (raise (.clockGatedAccess a) s)) ∨
      (regAt a = none ∧ regWrite a v s = .stop (refuse .unmodelledRegister s)) := by
  cases h : regAt a with
  | none => simp [regWrite, h]
  | some r => cases hc : clocked s r <;> simp [regWrite, h, hc]

/-- A write to a channel register: it is made when the gate is on, and faults when it is off. -/
@[simp] theorem regWrite_chanAddr (c : ChanIx) (r : ChanReg) (v : Word) (s : State) :
    regWrite (chanAddr c r) v s =
      if s.dmaGate then .done () (s.setChan c (chanWrite r v (s.chan c)))
      else .stop (raise (.clockGatedAccess (chanAddr c r)) s) := by
  cases h : s.dmaGate <;> simp [regWrite, clocked, regWriteEffect, h]

/-- A write to a serial register: it is made when the engine's clock is on, and faults when it is off. -/
@[simp] theorem regWrite_serAddr (e : SerIx) (r : SerReg) (v : Word) (s : State) :
    regWrite (serAddr e r) v s =
      if (s.eng e).clkOn then .done () (serWrite e r v s)
      else .stop (raise (.clockGatedAccess (serAddr e r)) s) := by
  cases h : (s.eng e).clkOn <;> simp [regWrite, clocked, regWriteEffect, h]

/-- A read of a channel register: it is made when the gate is on, and faults when it is off. -/
@[simp] theorem regRead_chanAddr (c : ChanIx) (r : ChanReg) (s : State) :
    regRead (chanAddr c r) s =
      if s.dmaGate then .done (regValue (.chan c r) s) (regReadEffect (.chan c r) s)
      else .stop (raise (.clockGatedAccess (chanAddr c r)) s) := by
  cases h : s.dmaGate <;> simp [regRead, clocked, h]

/-- A read of a serial register: it is made when the engine's clock is on, and faults when it is off. -/
@[simp] theorem regRead_serAddr (e : SerIx) (r : SerReg) (s : State) :
    regRead (serAddr e r) s =
      if (s.eng e).clkOn then .done (regValue (.ser e r) s) (regReadEffect (.ser e r) s)
      else .stop (raise (.clockGatedAccess (serAddr e r)) s) := by
  cases h : (s.eng e).clkOn <;> simp [regRead, clocked, h]

/-- All that a byte read can do: it is made, with no effect, or it faults. -/
theorem byteRead_cases (who : Owner) (a : Word) (s : State) :
    (ownsAddr s.bufs who a = true ∧ byteRead who a s = .done (memRead s.mem a.toNat) s) ∨
      (ownsAddr s.bufs who a = false ∧ byteRead who a s = .stop (raise (.dmaOutOfBuffer who a) s)) := by
  cases h : ownsAddr s.bufs who a <;> simp [byteRead, h]

/-- All that a byte write can do: it is made, or it faults and memory stays. -/
theorem byteWrite_cases (who : Owner) (a : Word) (x : Byte) (s : State) :
    (ownsAddr s.bufs who a = true ∧ byteWrite who a x s = .done () { s with mem := memWrite s.mem a.toNat x }) ∨
      (ownsAddr s.bufs who a = false ∧ byteWrite who a x s = .stop (raise (.dmaOutOfBuffer who a) s)) := by
  cases h : ownsAddr s.bufs who a <;> simp [byteWrite, h]

section
variable {α : Type} (v : α) (s : State) (f : α → State → Micro)

@[simp] theorem andThen_done : (Access.done v s).andThen f = f v s := rfl
@[simp] theorem andThen_stop : (Access.stop s : Access α).andThen f = .stop s := rfl

end

/-- A CR write, as the engine's new value and the pin event. -/
theorem crWrite_eq (e : SerIx) (v : Word) (s : State) :
    crWrite e v s =
      { s.setEng e (crEngine e v (s.eng e)) with
        events :=
          if (crEngine e v (s.eng e)).csAsserted = (s.eng e).csAsserted then s.events
          else s.events ++ [.csPin e (csPinLevel (crEngine e v (s.eng e)))] } := by
  unfold crWrite
  by_cases h : (crEngine e v (s.eng e)).csAsserted = (s.eng e).csAsserted
  · simp only [h, if_true]; rfl
  · simp only [h, if_false]; rfl

/-- A second CR write of the same word leaves the engine as the first did (R101). -/
theorem crEngine_again (e : SerIx) (v : Word) (x : Ser) : crEngine e v (crEngine e v x) = crEngine e v x := by
  have h1 : ∀ en dis rst d old : Bool,
      enableAfter en dis rst d (enableAfter en dis rst d old) = enableAfter en dis rst d old := by decide
  have h2 : ∀ a b : Bool, (a && b && b) = (a && b) := by decide
  have h3 : ∀ a b c : Bool,
      (if a then false else if b then true else if a then false else if b then true else c) =
        (if a then false else if b then true else c) := by decide
  simp only [crEngine, h1, h2, h3]
  cases v.getLsbD 3 <;> rfl

/-- What a register write leaves alone, whichever register it writes. -/
theorem regWriteEffect_frame (r : RegRef) (v : Word) (s : State) :
    (regWriteEffect r v s).cur = s.cur ∧ (regWriteEffect r v s).fault = s.fault ∧
      (regWriteEffect r v s).refused = s.refused ∧ (regWriteEffect r v s).dmaCount = s.dmaCount ∧
      (regWriteEffect r v s).dmaGate = s.dmaGate ∧ (regWriteEffect r v s).dmaMasked = s.dmaMasked ∧
      (regWriteEffect r v s).serMasked = s.serMasked ∧ (regWriteEffect r v s).bufs = s.bufs ∧
      (regWriteEffect r v s).mem = s.mem := by
  cases r with
  | chan c q => simp [regWriteEffect]
  | ser e q =>
    cases q <;> simp only [regWriteEffect, serWrite] <;> try simp
    · simp [crWrite_eq]
    · by_cases h : (s.eng e).thrFull <;> simp [thrWrite, h]

/-- What a register read leaves alone, whichever register it reads. -/
theorem regReadEffect_frame (r : RegRef) (s : State) :
    (regReadEffect r s).cur = s.cur ∧ (regReadEffect r s).fault = s.fault ∧
      (regReadEffect r s).refused = s.refused ∧ (regReadEffect r s).dmaCount = s.dmaCount ∧
      (regReadEffect r s).dmaGate = s.dmaGate ∧ (regReadEffect r s).ch = s.ch ∧
      (regReadEffect r s).dmaMasked = s.dmaMasked ∧ (regReadEffect r s).serMasked = s.serMasked ∧
      (regReadEffect r s).bufs = s.bufs ∧ (regReadEffect r s).mem = s.mem ∧
      (regReadEffect r s).events = s.events := by
  cases r with
  | chan c q => cases q <;> simp [regReadEffect, chanRead?]
  | ser e q => cases q <;> simp [regReadEffect, serRead?]

/-- A register write does not look at where the CPU agent stands. -/
@[simp] theorem regWriteEffect_setCur (r : RegRef) (v : Word) (s : State) (c : Option Cur) :
    regWriteEffect r v (setCur c s) = setCur c (regWriteEffect r v s) := by
  cases r with
  | chan c' q => rfl
  | ser e q =>
    cases q <;> simp only [regWriteEffect, serWrite] <;> try rfl
    · rw [crWrite_eq, crWrite_eq]; rfl
    · by_cases h : (s.eng e).thrFull
      · have h' : ((setCur c s).eng e).thrFull = true := h
        simp only [thrWrite, h, h', if_true]; rfl
      · have h' : ¬ ((setCur c s).eng e).thrFull = true := h
        simp only [thrWrite, h, h']; rfl

/-- Nor does a register read. -/
@[simp] theorem regReadEffect_setCur (r : RegRef) (s : State) (c : Option Cur) :
    regReadEffect r (setCur c s) = setCur c (regReadEffect r s) := by
  cases r with
  | chan c' q => cases q <;> rfl
  | ser e q => cases q <;> rfl

/-- Nor does the value read. -/
@[simp] theorem regValue_setCur (r : RegRef) (s : State) (c : Option Cur) : regValue r (setCur c s) = regValue r s := by
  cases r <;> rfl

/-- Nor whether the clock is on. -/
@[simp] theorem clocked_setCur (r : RegRef) (s : State) (c : Option Cur) : clocked (setCur c s) r = clocked s r := by
  cases r <;> rfl

/-- A serial write does not look at where the CPU agent stands. -/
@[simp] theorem serWrite_setCur (e : SerIx) (r : SerReg) (v : Word) (s : State) (c : Option Cur) :
    serWrite e r v (setCur c s) = setCur c (serWrite e r v s) :=
  regWriteEffect_setCur (.ser e r) v s c

/-- What a channel write leaves alone: the software's part of the channel. -/
theorem chanWrite_frame (r : ChanReg) (v : Word) (x : Chan) :
    (chanWrite r v x).enabled = x.enabled ∧ (chanWrite r v x).client = x.client ∧ (chanWrite r v x).slot = x.slot := by
  cases r <;> simp [chanWrite]

/-- What a serial write leaves alone: the other engines, and the software's part of the engine and its clock. -/
theorem serWrite_frame (e e' : SerIx) (r : SerReg) (v : Word) (s : State) :
    (e' ≠ e → (serWrite e r v s).eng e' = s.eng e') ∧
      ((serWrite e r v s).eng e').mode = (s.eng e').mode ∧ ((serWrite e r v s).eng e').client = (s.eng e').client ∧
      ((serWrite e r v s).eng e').dma = (s.eng e').dma ∧ ((serWrite e r v s).eng e').ctx = (s.eng e').ctx ∧
      ((serWrite e r v s).eng e').clkOn = (s.eng e').clkOn ∧ ∀ c, (serWrite e r v s).chan c = s.chan c := by
  have key : ∀ (x : Ser) (t : State), t.ser = (s.setEng e x).ser → t.ch = s.ch →
      x.mode = (s.eng e).mode → x.client = (s.eng e).client → x.dma = (s.eng e).dma → x.ctx = (s.eng e).ctx →
      x.clkOn = (s.eng e).clkOn →
      ((e' ≠ e → t.eng e' = s.eng e') ∧ (t.eng e').mode = (s.eng e').mode ∧ (t.eng e').client = (s.eng e').client ∧
        (t.eng e').dma = (s.eng e').dma ∧ (t.eng e').ctx = (s.eng e').ctx ∧ (t.eng e').clkOn = (s.eng e').clkOn ∧
        ∀ c, t.chan c = s.chan c) := by
    intro x t hs hc h1 h2 h3 h4 h5
    have ht : t.eng e' = (s.setEng e x).eng e' := by simp only [State.eng, hs]
    have hch : ∀ c, t.chan c = s.chan c := by intro c; simp only [State.chan, hc]
    rw [ht, setEng_eng]
    by_cases h : e' = e
    · subst h; simp [h1, h2, h3, h4, h5, hch]
    · simp [h, hch]
  cases r
  case cr =>
    refine key (crEngine e v (s.eng e)) _ ?_ ?_ ?_ ?_ ?_ ?_ ?_ <;> simp [serWrite, crWrite_eq, crEngine]
  case thr =>
    by_cases h : (s.eng e).thrFull
    · exact key { s.eng e with thr := if Config.drawBool s.sched.draws then v.extractLsb' 0 8 else (s.eng e).thr } _
        (by simp [serWrite, thrWrite, h]) (by simp [serWrite, thrWrite, h]) rfl rfl rfl rfl rfl
    · exact key { s.eng e with thr := v.extractLsb' 0 8, thrFull := true } _
        (by simp [serWrite, thrWrite, h]) (by simp [serWrite, thrWrite, h]) rfl rfl rfl rfl rfl
  case mr => exact key { s.eng e with mr := v } _ (by simp [serWrite]) (by simp [serWrite]) rfl rfl rfl rfl rfl
  case ier =>
    exact key { s.eng e with imr := (s.eng e).imr ||| (v &&& serIntBits) } _ (by simp [serWrite]) (by simp [serWrite])
      rfl rfl rfl rfl rfl
  case idr =>
    exact key { s.eng e with imr := (s.eng e).imr &&& ~~~(v &&& serIntBits) } _ (by simp [serWrite])
      (by simp [serWrite]) rfl rfl rfl rfl rfl
  case brgr => exact key { s.eng e with brgr := v } _ (by simp [serWrite]) (by simp [serWrite]) rfl rfl rfl rfl rfl
  case ttgr => exact key { s.eng e with ttgr := v } _ (by simp [serWrite]) (by simp [serWrite]) rfl rfl rfl rfl rfl
  case imr => simp [serWrite]
  case csr => simp [serWrite]
  case rhr => simp [serWrite]

end Sys2Proof.Machine
end

