-- ==== Sys2Proof/Laws/Encoding.lean ====
section
/-! SUPPORT. The operation word: its fields read back, and the decoder's check of its row. -/

namespace Sys2Proof

/-- OPC reads back. -/
@[simp] theorem wordOpc_mkWord (o : Op) (i : BitVec 4) (p : BitVec 6) (m : BitVec 16) : wordOpc (mkWord o i p m) = o.code := by
  ext j hj
  simp only [wordOpc, mkWord, BitVec.getElem_extractLsb', BitVec.getLsbD_append]
  have h1 : ¬ 26 + j < 16 := by omega
  have h2 : ¬ 26 + j - 16 < 6 := by omega
  have h3 : ¬ 26 + j - 16 - 6 < 4 := by omega
  have h4 : 26 + j - 16 - 6 - 4 = j := by omega
  simp [h1, h2, h3, h4, BitVec.getLsbD_eq_getElem, hj]

/-- IDX reads back. -/
@[simp] theorem wordIdx_mkWord (o : Op) (i : BitVec 4) (p : BitVec 6) (m : BitVec 16) : wordIdx (mkWord o i p m) = i := by
  ext j hj
  simp only [wordIdx, mkWord, BitVec.getElem_extractLsb', BitVec.getLsbD_append]
  have h1 : ¬ 22 + j < 16 := by omega
  have h2 : ¬ 22 + j - 16 < 6 := by omega
  have h4 : 22 + j - 16 - 6 = j := by omega
  simp [h1, h2, h4, BitVec.getLsbD_eq_getElem, hj]

/-- PID reads back. -/
@[simp] theorem wordPid_mkWord (o : Op) (i : BitVec 4) (p : BitVec 6) (m : BitVec 16) : wordPid (mkWord o i p m) = p := by
  ext j hj
  simp only [wordPid, mkWord, BitVec.getElem_extractLsb', BitVec.getLsbD_append]
  have h1 : ¬ 16 + j < 16 := by omega
  have h4 : 16 + j - 16 = j := by omega
  simp [h1, h4, BitVec.getLsbD_eq_getElem, hj]

/-- A low bit of the word is a bit of IMM. -/
theorem mkWord_getLsbD (o : Op) (i : BitVec 4) (p : BitVec 6) (m : BitVec 16) (j : Nat) (h : j < 16) :
    (mkWord o i p m).getLsbD j = m.getLsbD j := by
  rw [mkWord, BitVec.getLsbD_append]
  simp [h]

/-- The match word of a row: its opcode and zeros (R141). -/
theorem matchWord_eq (o : Op) : o.matchWord = o.code ++ 0#4 ++ 0#6 ++ 0#16 := by cases o <;> rfl

/-- Every opcode is its mnemonic's. -/
@[simp] theorem ofCode_code (o : Op) : Op.ofCode? o.code = some o := by cases o <;> decide

/-- A word whose fields lie where its row's mask is 0 matches the row. -/
theorem row_of_fields {o : Op} {i mi : BitVec 4} {p mp : BitVec 6} {m mm : BitVec 16}
    (h : o.maskWord = 0x3F#6 ++ mi ++ mp ++ mm) (hi : i &&& mi = 0#4) (hp : p &&& mp = 0#6) (hm : m &&& mm = 0#16) :
    mkWord o i p m &&& o.maskWord = o.matchWord := by
  rw [h, matchWord_eq, mkWord, BitVec.and_append, BitVec.and_append, BitVec.and_append, hi, hp, hm]
  have : o.code &&& 0x3F#6 = o.code := by cases o <;> rfl
  rw [this]

/-- Such a word decodes to its row's operation. -/
theorem decodeOp_mkWord {o : Op} {i mi : BitVec 4} {p mp : BitVec 6} {m mm : BitVec 16}
    (h : o.maskWord = 0x3F#6 ++ mi ++ mp ++ mm) (hi : i &&& mi = 0#4) (hp : p &&& mp = 0#6) (hm : m &&& mm = 0#16) :
    decodeOp (mkWord o i p m) = .ok o := by
  simp [decodeOp, wordOpc_mkWord, ofCode_code, row_of_fields h hi hp hm]
end Sys2Proof
end

