-- ==== Sys2Proof/Laws/Memory.lean ====
section
/-! SUPPORT. Data memory and the buffer table: what is read after a write, and that every operation keeps the canonical
form. -/

namespace Sys2Proof.Machine

/-- Another byte reads as before, whatever the memory. -/
theorem memRead_memWrite_other (m : Mem) {a a' : Nat} (x : Byte) (h : a' ≠ a) :
    memRead (memWrite m a x) a' = memRead m a' := by
  induction m with
  | nil =>
    unfold memWrite
    split <;> simp [memRead, h]
  | cons p m ih =>
    obtain ⟨b, y⟩ := p
    unfold memWrite
    split_ifs with h1 h2 h3 h4
    · rfl
    · simp [memRead, h]
    · subst h3; simp [memRead, h]
    · subst h3; simp [memRead, h]
    · simp [memRead, ih]

/-- Below every listed address, a byte reads as unlisted. -/
theorem memRead_below (m : Mem) (a : Nat) (h : m.all (fun c => decide (a < c.1)) = true) : memRead m a = unlistedByte := by
  induction m with
  | nil => rfl
  | cons p m ih =>
    obtain ⟨b, y⟩ := p
    simp only [List.all_cons, Bool.and_eq_true, decide_eq_true_eq] at h
    have h1 : a ≠ b := by omega
    simp only [memRead, h1, if_false]
    exact ih h.2

/-- The canonical form, part by part. -/
theorem Memory.wf_cons (b : Nat) (y : Byte) (m : Mem) :
    Memory.wf ((b, y) :: m) = true ↔
      y ≠ unlistedByte ∧ b < 2 ^ 32 ∧ m.all (fun c => decide (b < c.1)) = true ∧ Memory.wf m = true := by
  simp only [Memory.wf, Bool.and_eq_true, decide_eq_true_eq]
  tauto

/-- A byte written reads back. -/
theorem memRead_memWrite_same (m : Mem) (a : Nat) (x : Byte) (h : Memory.wf m = true) :
    memRead (memWrite m a x) a = x := by
  induction m with
  | nil =>
    unfold memWrite
    split <;> simp_all [memRead]
  | cons p m ih =>
    obtain ⟨b, y⟩ := p
    rw [Memory.wf_cons] at h
    obtain ⟨_, _, h3, h4⟩ := h
    unfold memWrite
    split_ifs with h1 h2 h5 h6
    · subst h2
      apply memRead_below
      simp only [List.all_cons, h1, decide_true, Bool.true_and]
      rw [List.all_eq_true] at h3 ⊢
      intro c hc
      have := h3 c hc
      simp only [decide_eq_true_eq] at this ⊢
      omega
    · simp [memRead]
    · subst h5; subst h6; exact memRead_below m a h3
    · simp [memRead]
    · simp only [memRead, h5, if_false]
      exact ih h4

/-- What a write adds to the listed addresses: at most its own. -/
theorem memWrite_all (m : Mem) (a : Nat) (x : Byte) (p : Nat → Bool) (hm : m.all (fun c => p c.1) = true)
    (ha : p a = true) : (memWrite m a x).all (fun c => p c.1) = true := by
  induction m with
  | nil =>
    unfold memWrite
    split <;> simp [ha]
  | cons q m ih =>
    obtain ⟨b, y⟩ := q
    simp only [List.all_cons, Bool.and_eq_true] at hm
    have ih' := ih hm.2
    unfold memWrite
    split_ifs <;> (try simp only [List.all_cons, Bool.and_eq_true]) <;> tauto

/-- A write keeps the canonical form. -/
theorem memWrite_wf (m : Mem) (a : Nat) (x : Byte) (h : Memory.wf m = true) (ha : a < 2 ^ 32) :
    Memory.wf (memWrite m a x) = true := by
  induction m with
  | nil =>
    unfold memWrite
    split
    · rfl
    · rename_i hx
      simpa [Memory.wf, hx] using ha
  | cons p m ih =>
    obtain ⟨b, y⟩ := p
    have h0 := h
    rw [Memory.wf_cons] at h
    obtain ⟨h1, h2, h3, h4⟩ := h
    unfold memWrite
    split_ifs with h5 h6 h7 h8
    · exact h0
    · rw [Memory.wf_cons]
      refine ⟨h6, ha, ?_, h0⟩
      simp only [List.all_cons, h5, decide_true, Bool.true_and]
      rw [List.all_eq_true] at h3 ⊢
      intro c hc
      have := h3 c hc
      simp only [decide_eq_true_eq] at this ⊢
      omega
    · exact h4
    · subst h7
      rw [Memory.wf_cons]
      exact ⟨h8, ha, h3, h4⟩
    · rw [Memory.wf_cons]
      refine ⟨h1, h2, ?_, ih h4⟩
      exact memWrite_all m a x (fun n => decide (b < n)) h3 (by simp; omega)

/-- The canonical form of the buffer table, part by part. -/
theorem Buffers.wf_cons (f : BufEntry) (t : BufTable) :
    Buffers.wf (f :: t) = true ↔
      f.owner ≠ .host ∧ t.all (fun g => decide (f.buf.id < g.buf.id)) = true ∧ Buffers.wf t = true := by
  simp only [Buffers.wf, Bool.and_eq_true, decide_eq_true_eq]
  tauto

/-- Below every listed id, a buffer is the host's. -/
theorem bufOwner_below (t : BufTable) (i : Nat) (h : t.all (fun g => decide (i < g.buf.id)) = true) :
    bufOwner t i = .host := by
  induction t with
  | nil => rfl
  | cons f t ih =>
    simp only [List.all_cons, Bool.and_eq_true, decide_eq_true_eq] at h
    have h1 : i ≠ f.buf.id := by omega
    simp only [bufOwner, h1, if_false]
    exact ih h.2

/-- Another buffer's owner stays, whatever the table. -/
theorem bufOwner_bufSet_other (t : BufTable) (b : Buf) (o : Owner) {i : Nat} (h : i ≠ b.id) :
    bufOwner (bufSet t b o) i = bufOwner t i := by
  induction t with
  | nil =>
    unfold bufSet
    split <;> simp [bufOwner, h]
  | cons f t ih =>
    unfold bufSet
    split_ifs with h1 h2 h3 h4
    · rfl
    · simp [bufOwner, h]
    · rw [h3] at h; simp [bufOwner, h]
    · have h' := h; rw [h3] at h'; simp [bufOwner, h, h']
    · simp [bufOwner, ih]

/-- The owner after a change of owner. -/
theorem bufOwner_bufSet (t : BufTable) (b : Buf) (o : Owner) (i : Nat) (h : Buffers.wf t = true) :
    bufOwner (bufSet t b o) i = if i = b.id then o else bufOwner t i := by
  by_cases hi : i = b.id
  · subst hi
    simp only [if_true]
    induction t with
    | nil =>
      unfold bufSet
      split <;> simp_all [bufOwner]
    | cons f t ih =>
      rw [Buffers.wf_cons] at h
      obtain ⟨_, h2, h3⟩ := h
      unfold bufSet
      split_ifs with h4 h5 h6 h7
      · subst h5
        apply bufOwner_below
        simp only [List.all_cons, h4, decide_true, Bool.true_and]
        rw [List.all_eq_true] at h2 ⊢
        intro c hc
        have := h2 c hc
        simp only [decide_eq_true_eq] at this ⊢
        omega
      · simp [bufOwner]
      · subst h7
        rw [h6]
        exact bufOwner_below t _ h2
      · simp [bufOwner]
      · simp only [bufOwner, h6, if_false]
        exact ih h3
  · simp only [hi, if_false]
    exact bufOwner_bufSet_other t b o hi

/-- What a change of owner adds to the listed ids: at most its own. -/
theorem bufSet_all (t : BufTable) (b : Buf) (o : Owner) (p : Nat → Bool) (ht : t.all (fun g => p g.buf.id) = true)
    (hb : p b.id = true) : (bufSet t b o).all (fun g => p g.buf.id) = true := by
  induction t with
  | nil =>
    unfold bufSet
    split <;> simp [hb]
  | cons f t ih =>
    simp only [List.all_cons, Bool.and_eq_true] at ht
    have ih' := ih ht.2
    unfold bufSet
    split_ifs <;> (try simp only [List.all_cons, Bool.and_eq_true]) <;> tauto

/-- A change of owner keeps the canonical form. -/
theorem bufSet_wf (t : BufTable) (b : Buf) (o : Owner) (h : Buffers.wf t = true) : Buffers.wf (bufSet t b o) = true := by
  induction t with
  | nil =>
    unfold bufSet
    split
    · rfl
    · rename_i ho
      simp [Buffers.wf, ho]
  | cons f t ih =>
    have h0 := h
    rw [Buffers.wf_cons] at h
    obtain ⟨h1, h2, h3⟩ := h
    unfold bufSet
    split_ifs with h4 h5 h6 h7
    · exact h0
    · rw [Buffers.wf_cons]
      refine ⟨h5, ?_, h0⟩
      simp only [List.all_cons, h4, decide_true, Bool.true_and]
      rw [List.all_eq_true] at h2 ⊢
      intro c hc
      have := h2 c hc
      simp only [decide_eq_true_eq] at this ⊢
      omega
    · exact h3
    · rw [Buffers.wf_cons]
      refine ⟨h7, ?_, h3⟩
      simpa [h6] using h2
    · rw [Buffers.wf_cons]
      refine ⟨h1, ?_, ih h3⟩
      exact bufSet_all t b o (fun n => decide (f.buf.id < n)) h2 (by simp; omega)

/-- The memory and the buffer table of the machine at reset are in canonical form. -/
theorem reset_dataInv : DataInv State.reset := ⟨rfl, rfl⟩

/-- A canonical table is empty exactly when every buffer is the host's: the first launch premise (R61, R411). -/
theorem bufs_nil_iff_host (t : BufTable) (h : Buffers.wf t = true) : t = [] ↔ ∀ n, bufOwner t n = .host := by
  cases t with
  | nil => simp [bufOwner]
  | cons e t =>
    simp only [Buffers.wf, Bool.and_eq_true, decide_eq_true_eq] at h
    exact ⟨nofun, fun hn => absurd (by simpa [bufOwner] using hn e.buf.id) h.1.1⟩

/-- Two buffers share no byte exactly when one is empty or one ends before the other begins. -/
theorem bufDisjoint_iff (a b : Buf) :
    bufDisjoint a b ↔
      a.cap = 0 ∨ b.cap = 0 ∨ a.addr.toNat + a.cap ≤ b.addr.toNat ∨ b.addr.toNat + b.cap ≤ a.addr.toNat := by
  simp only [bufDisjoint, bufCovers, Bool.and_eq_true, decide_eq_true_eq]
  refine ⟨fun h => ?_, fun h x => by omega⟩
  have := h a.addr
  have := h b.addr
  omega

end Sys2Proof.Machine
end

