-- ==== Sys2Proof/Laws/PerInstr.lean ====
section
/-! SUPPORT. Statements made of each instruction on its own: its encoding begins with a word of its row. -/

namespace Sys2Proof

/-- The first word of an instruction's encoding matches its own row of the opcode table (R141, R144). -/
def Laws.EncodeRow.Statement (i : Instr) : Prop :=
  ∃ w ws, encode i = w :: ws ∧ w &&& i.op.maskWord = i.op.matchWord

/-- No bit of a byte operand lies above bit 7. -/
theorem byteImm_masked (b : Byte) : byteImm b &&& (0xFF#8 ++ 0#8) = 0#16 := by
  unfold byteImm
  rw [BitVec.and_append]
  simp

/-- No bit of a one-bit operand lies above bit 0. -/
theorem bitImm_masked (v : Bool) : bitImm v &&& 0xFFFE#16 = 0#16 := by
  cases v <;> rfl

/-- The bit range lies in bits 12..8 and 4..0. -/
theorem rangeImm_masked (hi lo : Fin 32) : rangeImm hi lo &&& 0xE0E0#16 = 0#16 := by
  have h : (0xE0E0#16 : BitVec 16) = 7#3 ++ 0#5 ++ 7#3 ++ 0#5 := rfl
  unfold rangeImm
  rw [h, BitVec.and_append, BitVec.and_append, BitVec.and_append]
  simp

/-- The channel operand lies in bits 3..0. -/
theorem chanImm_masked (c : ChanIx) : chanImm c &&& 0xFFF0#16 = 0#16 := by
  have h : (0xFFF0#16 : BitVec 16) = 0xFFF#12 ++ 0#4 := rfl
  unfold chanImm
  rw [h, BitVec.and_append]
  simp

/-- The line kind is bit 8. -/
theorem kindImm_masked (v : Bool) : kindImm v &&& 0xFEFF#16 = 0#16 := by
  cases v <;> rfl

theorem Laws.EncodeRow.regRead (addr : Word) :
    Laws.EncodeRow.Statement (.regRead addr) :=
  ⟨_, _, rfl, row_of_fields (mi := 0xF#4) (mp := 0x3F#6) (mm := 0xFFFF#16) rfl (by simp) (by simp) (by simp)⟩

theorem Laws.EncodeRow.regWrite (addr value : Word) :
    Laws.EncodeRow.Statement (.regWrite addr value) :=
  ⟨_, _, rfl, row_of_fields (mi := 0xF#4) (mp := 0x3F#6) (mm := 0xFFFF#16) rfl (by simp) (by simp) (by simp)⟩

theorem Laws.EncodeRow.regFieldGet (hi lo : Fin 32) (addr : Word) :
    Laws.EncodeRow.Statement (.regFieldGet hi lo addr) :=
  ⟨_, _, rfl, row_of_fields (mi := 0xF#4) (mp := 0x3F#6) (mm := 0xE0E0#16) rfl (by simp) (by simp) (rangeImm_masked _ _)⟩

theorem Laws.EncodeRow.regFieldSet (hi lo : Fin 32) (addr value : Word) :
    Laws.EncodeRow.Statement (.regFieldSet hi lo addr value) :=
  ⟨_, _, rfl, row_of_fields (mi := 0xF#4) (mp := 0x3F#6) (mm := 0xE0E0#16) rfl (by simp) (by simp) (rangeImm_masked _ _)⟩

theorem Laws.EncodeRow.dmaEnable (c : ChanIx) :
    Laws.EncodeRow.Statement (.dmaEnable c) :=
  ⟨_, _, rfl, row_of_fields (mi := 0x0#4) (mp := 0x3F#6) (mm := 0xFFFF#16) rfl (by simp) (by simp) (by simp)⟩

theorem Laws.EncodeRow.dmaDisable (c : ChanIx) :
    Laws.EncodeRow.Statement (.dmaDisable c) :=
  ⟨_, _, rfl, row_of_fields (mi := 0x0#4) (mp := 0x3F#6) (mm := 0xFFFF#16) rfl (by simp) (by simp) (by simp)⟩

theorem Laws.EncodeRow.dmaProgram (c : ChanIx) (pid : Pid) (buf : Buf) (len : Word) :
    Laws.EncodeRow.Statement (.dmaProgram c pid buf len) :=
  ⟨_, _, rfl, row_of_fields (mi := 0x0#4) (mp := 0x00#6) (mm := 0xFFFF#16) rfl (by simp) (by simp) (by simp)⟩

theorem Laws.EncodeRow.dmaStart (c : ChanIx) :
    Laws.EncodeRow.Statement (.dmaStart c) :=
  ⟨_, _, rfl, row_of_fields (mi := 0x0#4) (mp := 0x3F#6) (mm := 0xFFFF#16) rfl (by simp) (by simp) (by simp)⟩

theorem Laws.EncodeRow.dmaDoTransfer (c : ChanIx) (pid : Pid) (buf : Buf) (len : Word) :
    Laws.EncodeRow.Statement (.dmaDoTransfer c pid buf len) :=
  ⟨_, _, rfl, row_of_fields (mi := 0x0#4) (mp := 0x00#6) (mm := 0xFFFF#16) rfl (by simp) (by simp) (by simp)⟩

theorem Laws.EncodeRow.dmaAbort (c : ChanIx) :
    Laws.EncodeRow.Statement (.dmaAbort c) :=
  ⟨_, _, rfl, row_of_fields (mi := 0x0#4) (mp := 0x3F#6) (mm := 0xFFFF#16) rfl (by simp) (by simp) (by simp)⟩

theorem Laws.EncodeRow.dmaHandleIrq (c : ChanIx) :
    Laws.EncodeRow.Statement (.dmaHandleIrq c) :=
  ⟨_, _, rfl, row_of_fields (mi := 0x0#4) (mp := 0x3F#6) (mm := 0xFFFF#16) rfl (by simp) (by simp) (by simp)⟩

theorem Laws.EncodeRow.dmaXferCount (c : ChanIx) :
    Laws.EncodeRow.Statement (.dmaXferCount c) :=
  ⟨_, _, rfl, row_of_fields (mi := 0x0#4) (mp := 0x3F#6) (mm := 0xFFFF#16) rfl (by simp) (by simp) (by simp)⟩

theorem Laws.EncodeRow.dmaSetClient (c : ChanIx) (client : Option DmaClient) :
    Laws.EncodeRow.Statement (.dmaSetClient c client) :=
  ⟨_, _, rfl, row_of_fields (mi := 0x0#4) (mp := 0x3F#6) (mm := 0xFFFF#16) rfl (by simp) (by simp) (by simp)⟩

theorem Laws.EncodeRow.serConfigureUart (e : SerIx) (params : UartParams) :
    Laws.EncodeRow.Statement (.serConfigureUart e params) :=
  ⟨_, _, rfl, row_of_fields (mi := 0x0#4) (mp := 0x3F#6) (mm := 0xFFFF#16) rfl (by simp) (by simp) (by simp)⟩

theorem Laws.EncodeRow.serSendByte (e : SerIx) (b : Byte) :
    Laws.EncodeRow.Statement (.serSendByte e b) :=
  ⟨_, _, rfl, row_of_fields (mi := 0x0#4) (mp := 0x3F#6) (mm := (0xFF#8 ++ 0#8)) rfl (by simp) (by simp) (byteImm_masked _)⟩

theorem Laws.EncodeRow.serSendBytes (e : SerIx) (buf : Buf) (len : Word) :
    Laws.EncodeRow.Statement (.serSendBytes e buf len) :=
  ⟨_, _, rfl, row_of_fields (mi := 0x0#4) (mp := 0x3F#6) (mm := 0xFFFF#16) rfl (by simp) (by simp) (by simp)⟩

theorem Laws.EncodeRow.serInitSpi (e : SerIx) :
    Laws.EncodeRow.Statement (.serInitSpi e) :=
  ⟨_, _, rfl, row_of_fields (mi := 0x0#4) (mp := 0x3F#6) (mm := 0xFFFF#16) rfl (by simp) (by simp) (by simp)⟩

theorem Laws.EncodeRow.serReadWriteBytes (e : SerIx) (w : Buf) (r : Option Buf) (len : Word) :
    Laws.EncodeRow.Statement (.serReadWriteBytes e w r len) :=
  ⟨_, _, rfl, row_of_fields (mi := 0x0#4) (mp := 0x3F#6) (mm := 0xFFFF#16) rfl (by simp) (by simp) (by simp)⟩

theorem Laws.EncodeRow.serHandleIrq (e : SerIx) :
    Laws.EncodeRow.Statement (.serHandleIrq e) :=
  ⟨_, _, rfl, row_of_fields (mi := 0x0#4) (mp := 0x3F#6) (mm := 0xFFFF#16) rfl (by simp) (by simp) (by simp)⟩

theorem Laws.EncodeRow.serDmaDone (e : SerIx) (pid : Pid) :
    Laws.EncodeRow.Statement (.serDmaDone e pid) :=
  ⟨_, _, rfl, row_of_fields (mi := 0x0#4) (mp := 0x00#6) (mm := 0xFFFF#16) rfl (by simp) (by simp) (by simp)⟩

theorem Laws.EncodeRow.serSetClient (e : SerIx) (client : SerClient) :
    Laws.EncodeRow.Statement (.serSetClient e client) :=
  ⟨_, _, rfl, row_of_fields (mi := 0x0#4) (mp := 0x3F#6) (mm := 0xFFFF#16) rfl (by simp) (by simp) (by simp)⟩

theorem Laws.EncodeRow.serAttachDma (e : SerIx) (pid : Pid) (c : ChanIx) :
    Laws.EncodeRow.Statement (.serAttachDma e pid c) :=
  ⟨_, _, rfl, row_of_fields (mi := 0x0#4) (mp := 0x00#6) (mm := 0xFFF0#16) rfl (by simp) (by simp) (chanImm_masked _)⟩

theorem Laws.EncodeRow.serEnableTx (e : SerIx) :
    Laws.EncodeRow.Statement (.serEnableTx e) :=
  ⟨_, _, rfl, row_of_fields (mi := 0x0#4) (mp := 0x3F#6) (mm := 0xFFFF#16) rfl (by simp) (by simp) (by simp)⟩

theorem Laws.EncodeRow.serDisableTx (e : SerIx) :
    Laws.EncodeRow.Statement (.serDisableTx e) :=
  ⟨_, _, rfl, row_of_fields (mi := 0x0#4) (mp := 0x3F#6) (mm := 0xFFFF#16) rfl (by simp) (by simp) (by simp)⟩

theorem Laws.EncodeRow.serEnableRx (e : SerIx) :
    Laws.EncodeRow.Statement (.serEnableRx e) :=
  ⟨_, _, rfl, row_of_fields (mi := 0x0#4) (mp := 0x3F#6) (mm := 0xFFFF#16) rfl (by simp) (by simp) (by simp)⟩

theorem Laws.EncodeRow.serDisableRx (e : SerIx) :
    Laws.EncodeRow.Statement (.serDisableRx e) :=
  ⟨_, _, rfl, row_of_fields (mi := 0x0#4) (mp := 0x3F#6) (mm := 0xFFFF#16) rfl (by simp) (by simp) (by simp)⟩

theorem Laws.EncodeRow.spiSetClock (e : SerIx) (v : Bool) :
    Laws.EncodeRow.Statement (.spiSetClock e v) :=
  ⟨_, _, rfl, row_of_fields (mi := 0x0#4) (mp := 0x3F#6) (mm := 0xFFFE#16) rfl (by simp) (by simp) (bitImm_masked _)⟩

theorem Laws.EncodeRow.spiGetClock (e : SerIx) :
    Laws.EncodeRow.Statement (.spiGetClock e) :=
  ⟨_, _, rfl, row_of_fields (mi := 0x0#4) (mp := 0x3F#6) (mm := 0xFFFF#16) rfl (by simp) (by simp) (by simp)⟩

theorem Laws.EncodeRow.spiSetPhase (e : SerIx) (v : Bool) :
    Laws.EncodeRow.Statement (.spiSetPhase e v) :=
  ⟨_, _, rfl, row_of_fields (mi := 0x0#4) (mp := 0x3F#6) (mm := 0xFFFE#16) rfl (by simp) (by simp) (bitImm_masked _)⟩

theorem Laws.EncodeRow.spiGetPhase (e : SerIx) :
    Laws.EncodeRow.Statement (.spiGetPhase e) :=
  ⟨_, _, rfl, row_of_fields (mi := 0x0#4) (mp := 0x3F#6) (mm := 0xFFFF#16) rfl (by simp) (by simp) (by simp)⟩

theorem Laws.EncodeRow.spiSetRate (e : SerIx) (rate : Word) :
    Laws.EncodeRow.Statement (.spiSetRate e rate) :=
  ⟨_, _, rfl, row_of_fields (mi := 0x0#4) (mp := 0x3F#6) (mm := 0xFFFF#16) rfl (by simp) (by simp) (by simp)⟩

theorem Laws.EncodeRow.spiGetRate (e : SerIx) :
    Laws.EncodeRow.Statement (.spiGetRate e) :=
  ⟨_, _, rfl, row_of_fields (mi := 0x0#4) (mp := 0x3F#6) (mm := 0xFFFF#16) rfl (by simp) (by simp) (by simp)⟩

theorem Laws.EncodeRow.spiSetChipSelect (e : SerIx) (cs : Byte) :
    Laws.EncodeRow.Statement (.spiSetChipSelect e cs) :=
  ⟨_, _, rfl, row_of_fields (mi := 0x0#4) (mp := 0x3F#6) (mm := (0xFF#8 ++ 0#8)) rfl (by simp) (by simp) (byteImm_masked _)⟩

theorem Laws.EncodeRow.spiGetChipSelect (e : SerIx) :
    Laws.EncodeRow.Statement (.spiGetChipSelect e) :=
  ⟨_, _, rfl, row_of_fields (mi := 0x0#4) (mp := 0x3F#6) (mm := 0xFFFF#16) rfl (by simp) (by simp) (by simp)⟩

theorem Laws.EncodeRow.irqDispatch (l : Line) :
    Laws.EncodeRow.Statement (.irqDispatch l) := by
  cases l <;>
    exact ⟨_, _, rfl, row_of_fields (mi := 0x0#4) (mp := 0x3F#6) (mm := 0xFEFF#16) rfl (by simp) (by simp) (kindImm_masked _)⟩

theorem Laws.EncodeRow.evDmaStep (c : ChanIx) (x0 : Byte) :
    Laws.EncodeRow.Statement (.evDmaStep c x0) :=
  ⟨_, _, rfl, row_of_fields (mi := 0x0#4) (mp := 0x3F#6) (mm := (0xFF#8 ++ 0#8)) rfl (by simp) (by simp) (byteImm_masked _)⟩

theorem Laws.EncodeRow.evSerLoad (e : SerIx) :
    Laws.EncodeRow.Statement (.evSerLoad e) :=
  ⟨_, _, rfl, row_of_fields (mi := 0x0#4) (mp := 0x3F#6) (mm := 0xFFFF#16) rfl (by simp) (by simp) (by simp)⟩

theorem Laws.EncodeRow.evSerShift (e : SerIx) (m : Byte) :
    Laws.EncodeRow.Statement (.evSerShift e m) :=
  ⟨_, _, rfl, row_of_fields (mi := 0x0#4) (mp := 0x3F#6) (mm := (0xFF#8 ++ 0#8)) rfl (by simp) (by simp) (byteImm_masked _)⟩

theorem Laws.EncodeRow.evSerRxArrive (e : SerIx) (x : Byte) :
    Laws.EncodeRow.Statement (.evSerRxArrive e x) :=
  ⟨_, _, rfl, row_of_fields (mi := 0x0#4) (mp := 0x3F#6) (mm := (0xFF#8 ++ 0#8)) rfl (by simp) (by simp) (byteImm_masked _)⟩

theorem Laws.EncodeRow.evHardFault :
    Laws.EncodeRow.Statement (.evHardFault) :=
  ⟨_, _, rfl, row_of_fields (mi := 0xF#4) (mp := 0x3F#6) (mm := 0xFFFF#16) rfl (by simp) (by simp) (by simp)⟩

end Sys2Proof
end

