-- ==== Sys2Proof/Laws/Run.lean ====
section
/-! SUPPORT. The run of a CPU operation, the three ways into a meaning, and the whole of what one step can be. -/

namespace Sys2Proof.Machine

section
variable {op : Instr} {body : Body} {k : Nat} {t : Word} {s : State} (n : Nat)

@[simp] theorem runSteps_zero : runSteps op body 0 k t s = setCur (some ⟨op, k, t⟩) s := rfl

/-- A step after which the operation goes on. -/
theorem runSteps_go {k' : Nat} {t' : Word} {s' : State} (h : body k t s = .go k' t' s') :
    runSteps op body (n + 1) k t s = runSteps op body n k' t' (setCur (some ⟨op, k', t'⟩) s') := by
  simp [runSteps, h]

/-- A step that completes the operation. -/
theorem runSteps_ret {s' : State} (h : body k t s = .ret s') : runSteps op body (n + 1) k t s = finish s' := by
  simp [runSteps, h]

/-- A step that ends in a fault or a refusal. -/
theorem runSteps_stop {s' : State} (h : body k t s = .stop s') : runSteps op body (n + 1) k t s = s' := by
  simp [runSteps, h]

/-- A step at which the CPU agent holds. -/
theorem runSteps_hold (h : body k t s = .hold) :
    runSteps op body (n + 1) k t s = setCur (some ⟨op, k, t⟩) s := by
  simp [runSteps, h]

end

/-- Induction over a run: `J` holds where each step begins, and `I` wherever the run can stand still. -/
theorem runSteps_induct {op : Instr} {body : Body} {I : State → Prop} {J : Nat → Word → State → Prop}
    (pause : ∀ k t s, J k t s → I (setCur (some ⟨op, k, t⟩) s))
    (go : ∀ k t s k' t' s', J k t s → body k t s = .go k' t' s' → J k' t' (setCur (some ⟨op, k', t'⟩) s'))
    (ret : ∀ k t s s', J k t s → body k t s = .ret s' → I (finish s'))
    (stop : ∀ k t s s', J k t s → body k t s = .stop s' → I s')
    (n k : Nat) (t : Word) (s : State) (h : J k t s) : I (runSteps op body n k t s) := by
  induction n generalizing k t s with
  | zero => exact pause k t s h
  | succ n ih =>
    cases hb : body k t s with
    | go k' t' s' => rw [runSteps_go n hb]; exact ih k' t' _ (go k t s k' t' s' h hb)
    | hold => rw [runSteps_hold n hb]; exact pause k t s h
    | ret s' => rw [runSteps_ret n hb]; exact ret k t s s' h hb
    | stop s' => rw [runSteps_stop n hb]; exact stop k t s s' h hb

/-- What the CPU agent does with an operation: it starts it, goes on with it, or holds. -/
theorem runCpu_cases (op : Instr) (body : Body) (s : State) :
    (s.cur = none ∧ runCpu op body s = runSteps op body (turnSteps s) 0 0 s) ∨
      (∃ k t, s.cur = some ⟨op, k, t⟩ ∧ runCpu op body s = runSteps op body (turnSteps s) k t s) ∨
      (∃ c, s.cur = some c ∧ c.op ≠ op ∧ runCpu op body s = s) := by
  unfold runCpu
  cases h : s.cur with
  | none => simp
  | some c =>
    obtain ⟨o, k, t⟩ := c
    by_cases ho : o = op
    · subst ho; simp
    · simp [ho]

/-- All the next states of a host operation. -/
theorem runHost_next {op : Instr} {body : Body} {s s' : State} (h : runHost op body s = .next s') :
    s.refused = false ∧ ((s.fault.isSome ∧ s' = refuse .halted s) ∨ (s.fault = none ∧ s' = runCpu op body s)) := by
  unfold runHost at h
  cases hr : s.refused <;> cases hf : s.fault <;> simp_all

/-- All the next states of a handler. -/
theorem runHandler_next {op : Instr} {body : Body} {s s' : State} (h : runHandler op body s = .next s') :
    s.refused = false ∧ s.fault = none ∧ ((s.cur = none ∧ s' = s) ∨ (s.cur.isSome ∧ s' = runCpu op body s)) := by
  unfold runHandler at h
  cases hr : s.refused <;> cases hf : s.fault <;> cases hc : s.cur <;> simp_all

/-- All the next states of an agent's step. -/
theorem runAgent_next {f : State → State} {s s' : State} (h : runAgent f s = .next s') :
    s.refused = false ∧ s.fault = none ∧ s' = f s := by
  unfold runAgent at h
  cases hr : s.refused <;> cases hf : s.fault <;> simp_all

/-- A host operation in a state where it can start and run to its end. -/
theorem runHost_ready {op : Instr} {body : Body} {s : State} (h : s.Ready) :
    runHost op body s = .next (runSteps op body maxSteps 0 0 s) := by
  obtain ⟨h1, h2, h3, h4⟩ := h
  simp [runHost, runCpu, turnSteps, h1, h2, h3, h4]

/-- A handler at its entry, with a turn long enough to run to its end. -/
theorem runHandler_entry {op : Instr} {body : Body} {s : State} (h : s.AtEntry op) :
    runHandler op body s = .next (runSteps op body maxSteps 0 0 s) := by
  obtain ⟨h1, h2, h3, h4⟩ := h
  simp [runHandler, runCpu, turnSteps, h1, h2, h3, h4]

/-- An agent's step on a running machine. -/
theorem runAgent_running {f : State → State} {s : State} (h : s.Running) : runAgent f s = .next (f s) := by
  simp [runAgent, h.1, h.2]

/-- All that a step can do to a machine that goes on. -/
theorem step_next {s s' : State} (h : step s = .next s') :
    (s.sched.booted = false ∧ s' = boot s) ∨
      (s.sched.booted = true ∧ s.refused = false ∧
        ((s.fault.isSome ∧ ∃ ws b rest, s.sched.input = .host ws b :: rest ∧ s' = refuse .halted (s.popTurn rest)) ∨
          (s.fault = none ∧ takeTurn s = .next s'))) := by
  unfold step stepOnce at h
  cases hb : s.sched.booted
  · simp_all
  · cases hr : s.refused
    · cases hf : s.fault with
      | none => simp_all
      | some f =>
        simp only [hb, hr, hf, Bool.not_true, Bool.false_eq_true, if_false, Option.isSome_some, if_true] at h
        unfold haltedStep at h
        split at h
        · rename_i ws b rest hi
          simp only [Host.Outcome.next.injEq] at h
          exact .inr ⟨rfl, rfl, .inl ⟨rfl, ws, b, rest, hi, h.symm⟩⟩
        · exact absurd h (by simp)
    · simp_all

/-- What is picked is in the list. -/
theorem pickRound_mem {α : Type} {n : Nat} {l : List α} {x : α} (h : pickRound n l = some x) : x ∈ l := by
  match l, h with
  | [_], h => simp_all [pickRound]
  | _ :: _ :: _, h => exact List.mem_of_getElem? h

/-- Nothing is picked from an empty list only. -/
theorem pickRound_none {α : Type} {n : Nat} {l : List α} : pickRound n l = none ↔ l = [] := by
  match l with
  | [] => simp [pickRound]
  | [_] => simp [pickRound]
  | _ :: _ :: l =>
    have h := Nat.mod_lt n (show 0 < l.length + 2 by omega)
    simp only [pickRound, List.getElem?_eq_none_iff, List.length_cons, reduceCtorEq, iff_false]
    omega

/-- All that a machine can do whose schedule gives no further turn: one of the enabled steps, or the end by quiescence. -/
theorem freeStep_cases (s : State) :
    (freeSteps s = [] ∧ freeStep s = .refused .quiescent) ∨ ∃ i ∈ freeSteps s, freeStep s = exec i s.unscheduled := by
  unfold freeStep
  cases h : pickRound (Config.drawChoice s.sched.draws) (freeSteps s) with
  | none => exact .inl ⟨pickRound_none.1 h, rfl⟩
  | some i => exact .inr ⟨i, pickRound_mem h, rfl⟩

/-- A property of states that `exec`, and the other things a step does, keep is kept by every step. -/
theorem step_keeps {I : State → Prop} (hboot : ∀ s, I s → I (boot s)) (hpop : ∀ s rest, I s → I (s.popTurn rest))
    (hburst : ∀ s b, I s → I (s.withBurst b)) (hext : ∀ s q, I s → I (s.withExtReq q))
    (hadvance : ∀ s n, I s → I (s.advance n))
    (hrefuse : ∀ s r, I s → I (refuse r s)) (hexec : ∀ i s s', I s → exec i s = .next s' → I s')
    {s s' : State} (hs : I s) (h : step s = .next s') : I s' := by
  rcases step_next h with ⟨_, rfl⟩ | ⟨_, _, ⟨_, ws, b, rest, _, rfl⟩ | ⟨_, ht⟩⟩
  · exact hboot s hs
  · exact hrefuse _ _ (hpop _ _ hs)
  · unfold takeTurn at ht
    split at ht
    · rcases freeStep_cases s with ⟨_, hf⟩ | ⟨i, _, hf⟩ <;> rw [hf] at ht
      · exact absurd ht (by simp)
      · exact hexec _ _ _ (hadvance _ _ (hext _ _ (hburst _ _ hs))) ht
    · exact hexec _ _ _ (hburst _ _ (hpop _ _ hs)) ht
    · simp only [Host.Outcome.next.injEq] at ht
      subst ht
      exact hburst _ _ (hpop _ _ hs)
    · exact hexec _ _ _ (hburst _ _ hs) ht
    · unfold issue at ht
      split at ht
      · simp only [Host.Outcome.next.injEq] at ht
        subst ht
        exact hrefuse _ _ (hburst _ _ (hpop _ _ hs))
      · split_ifs at ht
        · exact hexec _ _ _ (hburst _ _ (hpop _ _ hs)) ht
        · simp only [Host.Outcome.next.injEq] at ht
          subst ht
          exact hrefuse _ _ (hburst _ _ (hpop _ _ hs))
    · unfold agentStep at ht
      split at ht
      · simp only [Host.Outcome.next.injEq] at ht
        subst ht
        exact hrefuse _ _ (hext _ _ (hpop _ _ hs))
      · split_ifs at ht
        · simp only [Host.Outcome.next.injEq] at ht
          subst ht
          exact hext _ _ (hpop _ _ hs)
        · exact hexec _ _ _ (hext _ _ (hpop _ _ hs)) ht

end Sys2Proof.Machine
end

