-- ==== Sys2Proof/Machine/Text.lean ====
section
/-! DEFINITION. The textual syntax (30_encoding R147): `MNEMONIC field=value ... ; side operands`. A buffer is written by its
identity, a byte and a word in hexadecimal, every other number in decimal. -/

namespace Sys2Proof.Machine

/-- The name of a hexadecimal digit. -/
def hexDigit (n : Nat) : String :=
  ["0", "1", "2", "3", "4", "5", "6", "7", "8", "9", "A", "B", "C", "D", "E", "F"].getD (n % 16) "0"

/-- The lowest `k` hexadecimal digits of a number, highest first. -/
def hexDigits : Nat → Nat → String
  | 0, _ => ""
  | k + 1, n => hexDigits k (n / 16) ++ hexDigit n

/-- A byte, as in `b=0x41`. -/
def byteText (b : Byte) : String := "0x" ++ hexDigits 2 b.toNat

/-- A 32-bit word, as in `addr=0x400A2148`. -/
def wordText (w : Word) : String := "0x" ++ hexDigits 8 w.toNat

/-- The lowest `k` decimal digits of a number without leading zeros, highest first. -/
def decDigits : Nat → Nat → String
  | 0, _ => ""
  | k + 1, n => (if n < 10 then "" else decDigits k (n / 10)) ++ hexDigit (n % 10)

/-- A number below `10^40`, in decimal. -/
def natText (n : Nat) : String := decDigits 40 n

/-- A bit. -/
def bitText (v : Bool) : String := if v then "1" else "0"

/-- A buffer, as in `buf=B1`. -/
def bufText (b : Buf) : String := "B" ++ natText b.id

/-- An optional buffer, as in `r=some B2`. -/
def optBufText : Option Buf → String
  | none => "none"
  | some b => "some " ++ bufText b

/-- An optional DMA client, as in `client=some Ext(7)`. -/
def dmaClientText : Option DmaClient → String
  | none => "none"
  | some (.serEngine e) => "some SerEngine(" ++ natText e.val ++ ")"
  | some (.ext k) => "some Ext(" ++ natText k ++ ")"

/-- A serial client, as in `client=UartClient(1)`. -/
def serClientText : SerClient → String
  | .noClient => "NoClient"
  | .uartClient k => "UartClient(" ++ natText k ++ ")"
  | .spiClient k => "SpiClient(" ++ natText k ++ ")"

/-- The number of data bits. -/
def dataBitsText : DataBits → String
  | .five => "5"
  | .six => "6"
  | .seven => "7"
  | .eight => "8"

/-- The name of a parity (R136). -/
def parityText : Parity → String
  | .even => "Even"
  | .odd => "Odd"
  | .space => "Space"
  | .mark => "Mark"
  | .none => "None"

/-- The name of a number of stop bits (R136). -/
def stopBitsText : StopBits → String
  | .one => "One"
  | .oneAndHalf => "OneAndHalf"
  | .two => "Two"

/-- UART parameters, as in `params=(115200, 8, None, One)`. -/
def paramsText (p : UartParams) : String :=
  "(" ++ natText p.baud.toNat ++ ", " ++ dataBitsText p.dataBits ++ ", " ++ parityText p.parity ++ ", " ++
    stopBitsText p.stopBits ++ ")"

/-- `c=` and a channel. -/
def cText (c : ChanIx) : String := " c=" ++ natText c.val

/-- `s=` and an engine. -/
def sText (e : SerIx) : String := " s=" ++ natText e.val

/-- The buffer and the length of a transfer. -/
def bufLenText (b : Buf) (n : Word) : String := " ; buf=" ++ bufText b ++ " len=" ++ natText n.toNat

/-- The fields and side operands of an instruction. -/
def operandText : Instr → String
  | .regRead a => " ; addr=" ++ wordText a
  | .regWrite a v => " ; addr=" ++ wordText a ++ " value=" ++ wordText v
  | .regFieldGet hi lo a => " hi=" ++ natText hi.val ++ " lo=" ++ natText lo.val ++ " ; addr=" ++ wordText a
  | .regFieldSet hi lo a v =>
    " hi=" ++ natText hi.val ++ " lo=" ++ natText lo.val ++ " ; addr=" ++ wordText a ++ " value=" ++ wordText v
  | .dmaEnable c => cText c
  | .dmaDisable c => cText c
  | .dmaProgram c p b n => cText c ++ " pid=" ++ p.text ++ bufLenText b n
  | .dmaStart c => cText c
  | .dmaDoTransfer c p b n => cText c ++ " pid=" ++ p.text ++ bufLenText b n
  | .dmaAbort c => cText c
  | .dmaHandleIrq c => cText c
  | .dmaXferCount c => cText c
  | .dmaSetClient c k => cText c ++ " ; client=" ++ dmaClientText k
  | .serConfigureUart e p => sText e ++ " ; params=" ++ paramsText p
  | .serSendByte e b => sText e ++ " b=" ++ byteText b
  | .serSendBytes e b n => sText e ++ bufLenText b n
  | .serInitSpi e => sText e
  | .serReadWriteBytes e w r n =>
    sText e ++ " ; w=" ++ bufText w ++ " r=" ++ optBufText r ++ " len=" ++ natText n.toNat
  | .serHandleIrq e => sText e
  | .serDmaDone e p => sText e ++ " pid=" ++ p.text
  | .serSetClient e k => sText e ++ " ; client=" ++ serClientText k
  | .serAttachDma e p c => sText e ++ " pid=" ++ p.text ++ cText c
  | .serEnableTx e => sText e
  | .serDisableTx e => sText e
  | .serEnableRx e => sText e
  | .serDisableRx e => sText e
  | .spiSetClock e v => sText e ++ " v=" ++ bitText v
  | .spiGetClock e => sText e
  | .spiSetPhase e v => sText e ++ " v=" ++ bitText v
  | .spiGetPhase e => sText e
  | .spiSetRate e v => sText e ++ " ; rate=" ++ natText v.toNat
  | .spiGetRate e => sText e
  | .spiSetChipSelect e b => sText e ++ " cs=" ++ natText b.toNat
  | .spiGetChipSelect e => sText e
  | .irqDispatch (.dma c) => " idx=" ++ natText c.val ++ " kind=0"
  | .irqDispatch (.ser e) => " idx=" ++ natText e.val ++ " kind=1"
  | .evDmaStep c x => cText c ++ " x0=" ++ byteText x
  | .evSerLoad e => sText e
  | .evSerShift e m => sText e ++ " m=" ++ byteText m
  | .evSerRxArrive e x => sText e ++ " x=" ++ byteText x
  | .evHardFault => ""

/-- The text of an instruction (R147). -/
def instrText (i : Instr) : String := i.op.text ++ operandText i

end Sys2Proof.Machine
end

