-- ==== Sys2Proof/Tests/Slice0.lean ====
section
/-! SUPPORT. Tests: the well-formedness smoke, words written out from the spec's encodings, one-step tests, and a witness for
the hypotheses of each obligation. Expected results are those of the vectors of spec/95_test_vectors.md that the names or
comments cite, or follow by hand from the rule named. -/

namespace Sys2Proof.Tests

open Sys2Proof.Machine

/-! ## Well-formedness: a term that each check refuses -/

theorem test_wf_field_get_range : ¬ WellFormed (.regFieldGet 0 3 0) := by decide
theorem test_wf_field_set_range : ¬ WellFormed (.regFieldSet 30 31 0 0) := by decide
theorem test_wf_program_buffer : ¬ WellFormed (.dmaProgram 5 .twim1Tx ⟨1, 0xFFFFFFFF, 2⟩ 8) := by decide
theorem test_wf_program_buffer_id : ¬ WellFormed (.dmaProgram 5 .twim1Tx ⟨2 ^ 32, 0, 1⟩ 8) := by decide
theorem test_wf_do_transfer_buffer : ¬ WellFormed (.dmaDoTransfer 5 .twim1Tx ⟨1, 1, 2 ^ 32⟩ 8) := by decide
theorem test_wf_send_bytes_buffer : ¬ WellFormed (.serSendBytes 0 ⟨1, 0xFFFFFFF0, 17⟩ 8) := by decide
theorem test_wf_exchange_write_buffer : ¬ WellFormed (.serReadWriteBytes 1 ⟨1, 0xFFFFFFFF, 2⟩ none 1) := by decide
theorem test_wf_exchange_read_buffer :
    ¬ WellFormed (.serReadWriteBytes 1 ⟨1, 0, 2⟩ (some ⟨2, 0xFFFFFFFF, 2⟩) 1) := by decide
theorem test_wf_dma_client_id : ¬ WellFormed (.dmaSetClient 5 (some (.ext (2 ^ 32)))) := by decide
theorem test_wf_uart_client_id : ¬ WellFormed (.serSetClient 0 (.uartClient (2 ^ 32))) := by decide
theorem test_wf_spi_client_id : ¬ WellFormed (.serSetClient 0 (.spiClient (2 ^ 32))) := by decide
theorem test_wf_accepts_edges :
    WellFormed (.dmaProgram 5 .twim1Tx ⟨1, 0xFFFFFFFF, 1⟩ 8) ∧ WellFormed (.serSendBytes 0 ⟨2 ^ 32 - 1, 0, 2 ^ 32⟩ 8) ∧
      WellFormed (.regFieldGet 31 31 0) := by decide

/-! ## Decoding: words written out as `OPC<<26 | IDX<<22 | PID<<16 | IMM` (R141), one per constructor -/

/-- What a list of words decodes to, if it decodes. -/
def decoded (ws : List Word) : Option (Instr × List Word) := (decode ws).toOption

/-- Why a list of words is refused, if it is. -/
def refusedFor (ws : List Word) : Option RefuseReason :=
  match decode ws with
  | .ok _ => none
  | .error r => some r

theorem test_decode_register_operations :
    decoded [0x04000000, 0x400A2148, 9] = some (.regRead 0x400A2148, [9]) ∧
      decoded [0x08000000, 0x400A2148, 0x12345] = some (.regWrite 0x400A2148 0x12345, []) ∧
      decoded [0x0C001F00, 7] = some (.regFieldGet 31 0 7, []) ∧
      decoded [0x10000B09, 7, 8] = some (.regFieldSet 11 9 7 8, []) := by decide

theorem test_decode_dma_operations :
    decoded [0x21400000] = some (.dmaEnable 5, []) ∧ decoded [0x24800000] = some (.dmaDisable 2, []) ∧
      decoded [0x29580000, 1, 0x20001000, 8, 0, 3] = some (.dmaProgram 5 .twim1Tx ⟨1, 0x20001000, 8⟩ 3, []) ∧
      decoded [0x2D400000] = some (.dmaStart 5, []) ∧
      decoded [0x31860000, 9, 0xFFFFFFFF, 1, 0, 1] = some (.dmaDoTransfer 6 .twim1Rx ⟨9, 0xFFFFFFFF, 1⟩ 1, []) ∧
      decoded [0x34C00000] = some (.dmaAbort 3, []) ∧ decoded [0x39400000] = some (.dmaHandleIrq 5, []) ∧
      decoded [0x3FC00000] = some (.dmaXferCount 15, []) ∧
      decoded [0x41400000, 2, 7] = some (.dmaSetClient 5 (some (.ext 7)), []) ∧
      decoded [0x41400000, 1, 3] = some (.dmaSetClient 5 (some (.serEngine 3)), []) ∧
      decoded [0x41400000, 0] = some (.dmaSetClient 5 none, []) := by decide

theorem test_decode_serial_operations :
    decoded [0x60000000, 115200, 0x00000403] = some (.serConfigureUart 0 ⟨115200, .eight, .none, .one⟩, []) ∧
      decoded [0x60C00000, 9600, 0x00020102] = some (.serConfigureUart 3 ⟨9600, .seven, .odd, .two⟩, []) ∧
      decoded [0x64000041] = some (.serSendByte 0 0x41, []) ∧
      decoded [0x68000000, 4, 0x20002000, 4, 0, 10] = some (.serSendBytes 0 ⟨4, 0x20002000, 4⟩ 10, []) ∧
      decoded [0x6C400000] = some (.serInitSpi 1, []) ∧
      decoded [0x70400000, 1, 0x20000000, 3, 0, 1, 2, 0x20000100, 0, 0, 3] =
        some (.serReadWriteBytes 1 ⟨1, 0x20000000, 3⟩ (some ⟨2, 0x20000100, 0⟩) 3, []) ∧
      decoded [0x70400000, 1, 0, 0, 1, 0, 3] = some (.serReadWriteBytes 1 ⟨1, 0, 2 ^ 32⟩ none 3, []) ∧
      decoded [0x74000000] = some (.serHandleIrq 0, []) ∧
      decoded [0x78120000] = some (.serDmaDone 0 .usart0Tx, []) := by decide

theorem test_decode_engine_operations :
    decoded [0x7C400000, 2, 2] = some (.serSetClient 1 (.spiClient 2), []) ∧
      decoded [0x7C000000, 1, 1] = some (.serSetClient 0 (.uartClient 1), []) ∧
      decoded [0x7C000000, 0] = some (.serSetClient 0 .noClient, []) ∧
      decoded [0x80530002] = some (.serAttachDma 1 .usart1Tx 2, []) ∧
      decoded [0x84000000] = some (.serEnableTx 0, []) ∧ decoded [0x88400000] = some (.serDisableTx 1, []) ∧
      decoded [0x8C800000] = some (.serEnableRx 2, []) ∧ decoded [0x90C00000] = some (.serDisableRx 3, []) := by decide

theorem test_decode_spi_accessors :
    decoded [0xA0400001] = some (.spiSetClock 1 true, []) ∧ decoded [0xA4400000] = some (.spiGetClock 1, []) ∧
      decoded [0xA8400000] = some (.spiSetPhase 1 false, []) ∧ decoded [0xAC400000] = some (.spiGetPhase 1, []) ∧
      decoded [0xB0400000, 1000000] = some (.spiSetRate 1 1000000, []) ∧
      decoded [0xB4400000] = some (.spiGetRate 1, []) ∧ decoded [0xB8000003] = some (.spiSetChipSelect 0 3, []) ∧
      decoded [0xBC000000] = some (.spiGetChipSelect 0, []) := by decide

theorem test_decode_agent_steps :
    decoded [0xC0400100] = some (.irqDispatch (.ser 1), []) ∧ decoded [0xC1400000] = some (.irqDispatch (.dma 5), []) ∧
      decoded [0xC5800077] = some (.evDmaStep 6 0x77, []) ∧ decoded [0xC8400000] = some (.evSerLoad 1, []) ∧
      decoded [0xCC40005A] = some (.evSerShift 1 0x5A, []) ∧ decoded [0xD0800055] = some (.evSerRxArrive 2 0x55, []) ∧
      decoded [0xFC000000] = some (.evHardFault, []) := by decide

/-- E8 to E13: reserved encodings. -/
theorem test_decode_reserved :
    refusedFor [0x0C000003, 0] = some .reservedEncoding ∧ refusedFor [0x00000000] = some .reservedEncoding ∧
      refusedFor [0x14000000] = some .reservedEncoding ∧ refusedFor [0xF8000000] = some .reservedEncoding ∧
      refusedFor [0x21400001] = some .reservedEncoding ∧ refusedFor [0x21410000] = some .reservedEncoding := by decide

/-- E14, E15, E23, E25, E26: reserved encodings. -/
theorem test_decode_reserved_fields :
    refusedFor [0x294D0000, 0, 0, 0, 0, 0] = some .reservedEncoding ∧
      refusedFor [0x29670000, 0, 0, 0, 0, 0] = some .reservedEncoding ∧
      refusedFor [0x64000141] = some .reservedEncoding ∧ refusedFor [0xA0400002] = some .reservedEncoding ∧
      refusedFor [0x80120012] = some .reservedEncoding := by decide

/-- E16, E17, E27: an index and a parameter out of range. -/
theorem test_decode_out_of_range :
    refusedFor [0x6D000000] = some .indexOutOfRange ∧ refusedFor [0xC1000100] = some .indexOutOfRange ∧
      refusedFor [0x60000000, 115200, 0x00000404] = some .paramOutOfRange := by decide

/-- The examples of R147. -/
theorem test_text :
    instrText (.dmaProgram 5 .twim1Tx ⟨1, 0x20001000, 8⟩ 8) = "DMA_PROGRAM c=5 pid=TWIM1_TX ; buf=B1 len=8" ∧
      instrText (.serSendByte 0 0x41) = "SER_SEND_BYTE s=0 b=0x41" ∧
      instrText (.serReadWriteBytes 1 ⟨1, 0x20000000, 3⟩ (some ⟨2, 0x20000100, 3⟩) 3) =
        "SER_READ_WRITE_BYTES s=1 ; w=B1 r=some B2 len=3" := by decide

/-! ## Values: the divisor, the mode words, the selectors, the routes -/

/-- U1 to U7. -/
theorem test_baud :
    baudDivisor? 115200 = some 0x1A ∧ baudDivisor? 9600 = some 0x138 ∧ baudDivisor? 3000000 = some 1 ∧
      baudDivisor? 3000001 = none ∧ baudDivisor? 45 = none ∧ baudDivisor? 46 = some 0xFEC1 ∧ baudDivisor? 0 = none := by
  decide

/-- U1, U8 to U11, Q1. -/
theorem test_mode_words :
    mrUart ⟨115200, .eight, .none, .one⟩ = 0x8C0 ∧ mrUart ⟨115200, .seven, .even, .two⟩ = 0x2080 ∧
      mrUart ⟨115200, .five, .odd, .oneAndHalf⟩ = 0x1200 ∧ mrUart ⟨115200, .six, .mark, .one⟩ = 0x640 ∧
      mrUart ⟨115200, .eight, .space, .two⟩ = 0x24C0 ∧ mrSpi = 0x408CE := by decide

/-- B2v to B4v. -/
theorem test_selectors :
    decodeSelector 13 = none ∧ decodeSelector 39 = none ∧ decodeSelector 0x118 = none ∧ decodeSelector 0xFFFFFFFF = none ∧
      decodeSelector 0 = some .usart0Rx ∧ decodeSelector 22 = some .spiTx ∧ decodeSelector 38 = some .lcdcaAbmdrTx ∧
      Pid.dir .twim1Tx = .tx ∧ periphOf .twim1Tx = .external (.twim 1) ∧ periphOf .usart3Rx = .engine 3 := by decide

/-- R241, R247: the lines and the entry points that interrupt numbers are routed to. -/
theorem test_routes :
    routeIrq (lineIrq (.dma 5)) = some (.dmaHandleIrq 5) ∧ routeIrq (lineIrq (.ser 3)) = some (.serHandleIrq 3) := by decide

/-! ## States for the one-step tests -/

/-- A channel after reset, with its two drawn registers at 0. -/
def chan0 : Chan := { Chan.reset 0 with mar := 0, psr := 0 }

/-- An engine after reset, with its drawn register at 0. -/
def eng0 : Ser := { Ser.reset 0 with rhr := 0 }

/-- The launch state S0 of the vectors, each draw being 0. -/
def ready : State :=
  { State.reset with
    ch := Vector.replicate 16 chan0, ser := Vector.replicate 4 eng0, serMasked := Vector.replicate 4 false,
    sched := { Sched.reset with booted := true } }

/-- S0 with the DMA gate on. -/
def gated : State := { ready with dmaGate := true }

/-- An engine set up for UART, with its transmitter on. -/
def uart0 : Ser := { eng0 with mode := .uart, clkOn := true, mr := 0x8C0, brgr := 0x1A, imr := 1, txen := true }

/-- An engine set up for SPI. -/
def spi0 : Ser := { eng0 with mode := .spi, clkOn := true, mr := 0x408CE, client := .spiClient 2 }

def b1 : Buf := ⟨1, 0x20001000, 8⟩
def b2 : Buf := ⟨2, 0x20001100, 4⟩
def b4 : Buf := ⟨4, 0x20002000, 4⟩
def bw : Buf := ⟨1, 0x20000000, 3⟩
def br : Buf := ⟨2, 0x20000100, 3⟩

/-- Channel 5 after P1v and P11v. -/
def moving5 : Chan := { chan0 with slot := some b1, psr := 0x18, mar := 0x20001000, tcr := 8, imr := 2, ten := true }

/-- S0 with the gate on, `moving5`, an external request, and B1 holding 0x10 in its first byte. -/
def moving : State :=
  { gated.setChan 5 moving5 with
    bufs := [⟨b1, .chan 5⟩], mem := [(0x20001000, 0x10)], sched := { Sched.reset with booted := true, extReq := true } }

/-- Engine 0 attached to channel 2, a UART. -/
def attached : State :=
  (gated.setEng 0 { uart0 with dma := some (2, .usart0Tx), client := .uartClient 1 }).setChan 2
    { chan0 with client := some (.serEngine 0) }

/-- `attached` with B4 sent and its count run down. -/
def sent : State :=
  { attached.setChan 2 { chan0 with client := some (.serEngine 0), slot := some b4, psr := 0x12, imr := 2 } with
    bufs := [⟨b4, .chan 2⟩] }

/-- An SPI engine, engine 1. -/
def spi : State := ready.setEng 1 spi0

/-- Engine 1 in an exchange of W and R at index `k`, a byte of it received. -/
def exchange (k : Nat) : State :=
  { ready.setEng 1 { spi0 with
      ctx := some ⟨bw, some br, 3, k⟩, imr := 1, txen := true, rxen := true, csAsserted := true, rxrdy := true, rhr := 0x5A } with
    bufs := [⟨bw, .ser 1⟩, ⟨br, .ser 1⟩], mem := [(0x20000000, 0xA1), (0x20000001, 0xA2), (0x20000002, 0xA3)] }

/-- W3a and B8v: channel 5 enabled, its transfer over and no client registered. -/
def fired : State :=
  { gated.setChan 5 { chan0 with enabled := true, psr := 0x18, imr := 2 } with
    dmaCount := 1, dmaMasked := ready.dmaMasked.set 5 false }

/-- A state with a handler at its entry. -/
def entered (i : Instr) (s : State) : State := { s with cur := some ⟨i, 0, 0⟩ }

/-- The next state, if there is one. -/
def after (i : Instr) (s : State) : Option State :=
  match exec i s with
  | .next t => some t
  | _ => none

/-- The next state by `step`, if there is one. -/
def stepped (s : State) : Option State :=
  match step s with
  | .next t => some t
  | _ => none

/-! ## One step each -/

/-- R441: with nothing enabled and nothing scheduled, the run ends. -/
theorem test_quiescent : (match step ready with | .refused .quiescent => true | _ => false) = true := by decide

/-- B8v: with nothing scheduled, an asserted line is dispatched, its handler runs, and the line can be dispatched again. -/
theorem test_dispatch_again :
    (stepped fired).map (fun t => (t.cur, (stepped t).map (fun u => (u.cur, freeSteps u)))) =
      some (some ⟨.dmaHandleIrq 5, 0, 0⟩, some (none, [.irqDispatch (.dma 5)])) := by decide

/-- The first step after reset runs a word placed where it fetches: an operation of the host's and an agent's step. -/
theorem test_fetch :
    (stepped (State.reset.withFetchWord 32 0x21400000)).map (·.dmaCount) = some 1 ∧
      (stepped (State.reset.withFetchWord 32 0xFC000000)).map (·.fault.isSome) = some true ∧
      (stepped (State.reset.withFetchWord 32 0x39400000)).map (·.fault) = some (some (.clockGatedAccess 0x400A2144)) := by
  decide


/-- A7. -/
theorem test_reg_read_isr : (after (.regRead 0x400A216C) gated).map (·.events) = some [.ret .regRead (.word 3)] := by decide
/-- A15. -/
theorem test_reg_read_rhr :
    (after (.regRead 0x40024018) (ready.setEng 0 { uart0 with rxrdy := true, rhr := 0x55 })).map
      (fun t => (t.events, (t.eng 0).rxrdy)) = some ([.ret .regRead (.word 0x55)], false) := by decide
/-- A12. -/
theorem test_reg_write_tdis_wins :
    (after (.regWrite 0x400A2154 3) (gated.setChan 5 moving5)).map (fun t => (t.chan 5).ten) = some false := by decide
/-- A25. -/
theorem test_reg_write_rcs_wins :
    (after (.regWrite 0x40024000 0xC0000) (ready.setEng 0 { uart0 with csAsserted := true })).map
      (fun t => ((t.eng 0).csAsserted, t.events)) = some (false, [.csPin 0 true, .ret .regWrite .unit]) := by decide
/-- A18. -/
theorem test_reg_field_get :
    (after (.regFieldGet 3 0 0x40028004) spi).map (·.events) = some [.ret .regFieldGet (.word 0xE)] := by decide
/-- A19. -/
theorem test_reg_field_set_bit :
    (after (.regFieldSet 16 16 0x40028004 1) spi).map (fun t => (t.eng 1).mr) = some 0x508CE := by decide
/-- A21. -/
theorem test_reg_field_set_range :
    (after (.regFieldSet 11 9 0x40028004 1) spi).map (fun t => (t.eng 1).mr) = some 0x402CE := by decide
/-- D1. -/
theorem test_enable :
    (after (.dmaEnable 5) ready).map (fun t => (t.dmaCount, t.dmaGate, t.dmaMasked.get 5)) = some (1, true, false) := by
  decide
/-- W1c. -/
theorem test_disable_not_enabled :
    (after (.dmaDisable 5) ready).map (fun t => (t.dmaCount, t.dmaGate, t.events)) =
      some (0, false, [.ret .dmaDisable .unit]) := by decide
/-- P3v. -/
theorem test_program_clamps :
    (after (.dmaProgram 5 .twim1Tx b1 0xFFFFFFFF) gated).map
      (fun t => ((t.chan 5).psr, (t.chan 5).mar, (t.chan 5).tcr, (t.chan 5).imr, (t.chan 5).slot)) =
      some (0x18, 0x20001000, 8, 2, some b1) := by decide
/-- P8v. -/
theorem test_program_overwrite :
    (after (.dmaProgram 5 .twim1Tx b2 4) moving).map (fun t => (t.fault, (t.chan 5).mar, bufOwner t.bufs 2)) =
      some (some (.bufferOverwrite 5 1 2), 0x20001000, .host) := by decide
/-- P11v. -/
theorem test_start :
    (after (.dmaStart 5) (gated.setChan 5 { moving5 with ten := false })).map (fun t => (t.chan 5).ten) = some true := by
  decide
/-- P14v. -/
theorem test_do_transfer :
    (after (.dmaDoTransfer 5 .twim1Tx b1 8) gated).map (fun t => (t.chan 5, t.events)) =
      some (moving5, [.ret .dmaDoTransfer .unit]) := by decide
/-- P16v, P18v. -/
theorem test_abort :
    (after (.dmaAbort 5) moving).map
      (fun t => (((t.chan 5).imr, (t.chan 5).tcr, (t.chan 5).slot), (t.chan 5).ten, t.bufs, t.events)) =
      some ((0, 0, none), true, [], [.ret .dmaAbort (.buf (some b1))]) := by decide
/-- P20v. -/
theorem test_abort_gated :
    (after (.dmaAbort 5) ready).map (·.fault) = some (some (.clockGatedAccess 0x400A2164)) := by decide
/-- W3b. -/
theorem test_channel_handler :
    (after (.dmaHandleIrq 5) (entered (.dmaHandleIrq 5)
      (gated.setChan 5 { chan0 with client := some (.ext 7), psr := 0x12, imr := 2 }))).map (·.events) =
      some [.dmaDone 5 .usart0Tx] := by decide
/-- B10v. -/
theorem test_channel_handler_unmapped :
    (after (.dmaHandleIrq 5) (entered (.dmaHandleIrq 5) (gated.setChan 5 { chan0 with psr := 0x118 }))).map (·.fault) =
      some (some (.unmappedSelector 5 0x118)) := by decide
/-- P15v. -/
theorem test_count :
    (after (.dmaXferCount 5) (gated.setChan 5 { moving5 with tcr := 5 })).map (·.events) =
      some [.ret .dmaXferCount (.word 5)] := by decide
/-- P22v. -/
theorem test_set_client :
    (after (.dmaSetClient 5 (some (.ext 7))) ready).map (fun t => (t.chan 5).client) = some (some (.ext 7)) := by decide
/-- P24v. -/
theorem test_set_client_engine :
    (after (.dmaSetClient 5 (some (.serEngine 0))) ready).map (fun t => (t.refused, t.sched.why)) =
      some (true, some .paramOutOfRange) := by decide
/-- U1. -/
theorem test_configure :
    (after (.serConfigureUart 0 ⟨115200, .eight, .none, .one⟩) ready).map (fun t => t.eng 0) =
      some { eng0 with clkOn := true, brgr := 0x1A, mr := 0x8C0, mode := .uart, imr := 1 } := by decide
/-- U4. -/
theorem test_configure_baud :
    (after (.serConfigureUart 0 ⟨3000001, .eight, .none, .one⟩) ready).map (fun t => (t.fault, (t.eng 0).clkOn)) =
      some (some (.baudInvalid 0 3000001), false) := by decide
/-- U14. -/
theorem test_send_byte :
    (after (.serSendByte 0 0x41) attached).map (fun t => ((t.eng 0).thr, (t.eng 0).thrFull, t.cur)) =
      some (0x41, true, none) := by decide
/-- U15. -/
theorem test_send_byte_waits :
    (after (.serSendByte 0 0x42) (ready.setEng 0 { uart0 with thr := 0x41, thrFull := true })).map
      (fun t => ((t.eng 0).thr, t.cur)) = some (0x41, some ⟨.serSendByte 0 0x42, 0, 0⟩) := by decide
/-- U23. -/
theorem test_send_bytes :
    (after (.serSendBytes 0 b4 10) attached).map (fun t => (t.chan 2, bufOwner t.bufs 4)) =
      some ({ chan0 with client := some (.serEngine 0), psr := 0x12, mar := 0x20002000, tcr := 4, imr := 2, ten := true,
                         slot := some b4 }, .chan 2) := by decide
/-- U20. -/
theorem test_send_bytes_outstanding :
    (after (.serSendBytes 0 ⟨5, 0x20002100, 4⟩ 4) sent).map (·.fault) = some (some (.transferOutstanding 0)) := by decide
/-- Q1. -/
theorem test_init_spi :
    (after (.serInitSpi 1) ready).map (fun t => ((t.eng 1).clkOn, (t.eng 1).mode, (t.eng 1).mr, (t.eng 1).ttgr)) =
      some (true, .spi, 0x408CE, 0) := by decide
/-- Q4. -/
theorem test_exchange_start :
    (after (.serReadWriteBytes 1 bw (some br) 3) { spi with mem := [(0x20000000, 0xA1)] }).map
      (fun t => (((t.eng 1).thr, (t.eng 1).ctx, (t.eng 1).imr), bufOwner t.bufs 1, bufOwner t.bufs 2, t.events)) =
      some ((0xA1, some ⟨bw, some br, 3, 0⟩, 1), .ser 1, .ser 1, [.csPin 1 false, .ret .serReadWriteBytes .unit]) := by decide
/-- Q7. -/
theorem test_exchange_length :
    (after (.serReadWriteBytes 1 bw (some ⟨3, 0x20000200, 2⟩) 3) spi).map (·.fault) = some (some (.spiLengthInvalid 1 3)) := by
  decide
/-- Q11. -/
theorem test_exchange_middle :
    (after (.serHandleIrq 1) (entered (.serHandleIrq 1) (exchange 0))).map
      (fun t => (memRead t.mem 0x20000100, (t.eng 1).thr, (t.eng 1).ctx, t.events)) =
      some (0x5A, 0xA2, some ⟨bw, some br, 3, 1⟩, []) := by decide
/-- Q12. -/
theorem test_exchange_end :
    (after (.serHandleIrq 1) (entered (.serHandleIrq 1) (exchange 2))).map
      (fun t => (memRead t.mem 0x20000102, (t.eng 1).ctx, t.bufs, t.events)) =
      some (0x5A, none, [], [.csPin 1 true, .spiDone 1 bw (some br) 3]) := by decide
/-- U30, its last part. -/
theorem test_dma_done :
    (after (.serDmaDone 0 .usart0Tx) (entered (.serDmaDone 0 .usart0Tx) sent)).map
      (fun t => ((t.chan 2).imr, (t.chan 2).slot, t.bufs, t.events)) = some (0, none, [], [.uartWriteDone 0 b4]) := by decide
/-- U32. -/
theorem test_dma_done_shape :
    (after (.serDmaDone 0 .usart0Tx) (entered (.serDmaDone 0 .usart0Tx)
      (sent.setEng 0 { sent.eng 0 with client := .spiClient 2 }))).map (·.fault) = some (some (.clientShapeMismatch 0)) := by
  decide
/-- U34. -/
theorem test_ser_set_client :
    (after (.serSetClient 0 (.uartClient 1)) ready).map (fun t => (t.eng 0).client) = some (.uartClient 1) := by decide
/-- U35. -/
theorem test_attach :
    (after (.serAttachDma 0 .usart0Tx 2) ready).map (fun t => ((t.eng 0).dma, (t.chan 2).client)) =
      some (some (2, .usart0Tx), some (.serEngine 0)) := by decide
/-- U38. -/
theorem test_attach_receive :
    (after (.serAttachDma 0 .usart0Rx 2) ready).map (·.sched.why) = some (some .paramOutOfRange) := by decide
/-- U40. -/
theorem test_enable_tx :
    (after (.serEnableTx 0) (ready.setEng 0 { uart0 with txen := false })).map (fun t => serCsr (t.eng 0)) = some 2 := by
  decide
/-- U41. -/
theorem test_disable_tx :
    (after (.serDisableTx 0) (ready.setEng 0 { uart0 with shift := some 0x41, thr := 0x42, thrFull := true })).map
      (fun t => ((t.eng 0).txen, (t.eng 0).shift, (t.eng 0).thr)) = some (false, some 0x41, 0x42) := by decide
/-- U42. -/
theorem test_enable_rx : (after (.serEnableRx 0) attached).map (fun t => (t.eng 0).rxen) = some true := by decide
/-- U43. -/
theorem test_disable_rx :
    (after (.serDisableRx 0) (ready.setEng 0 { uart0 with rxen := true, rxrdy := true, rhr := 0x55 })).map
      (fun t => ((t.eng 0).rxen, (t.eng 0).rxrdy, (t.eng 0).rhr)) = some (false, true, 0x55) := by decide
/-- Q18, Q28. -/
theorem test_set_clock :
    (after (.spiSetClock 1 true) spi).map (fun t => (t.eng 1).mr) = some 0x508CE ∧
      (after (.spiSetClock 0 true) attached).map (fun t => (t.eng 0).mr) = some 0x108C0 := by decide
/-- Q19. -/
theorem test_get_clock :
    (after (.spiGetClock 1) (ready.setEng 1 { spi0 with mr := 0x508CE })).map (·.events) =
      some [.ret .spiGetClock (.word 1)] := by decide
/-- Q20, Q22. -/
theorem test_set_phase :
    (after (.spiSetPhase 1 true) spi).map (fun t => (t.eng 1).mr) = some 0x409CE ∧
      (after (.spiSetPhase 1 false) (ready.setEng 1 { spi0 with mr := 0x409CE })).map (fun t => (t.eng 1).mr) =
        some 0x408CE := by decide
/-- Q21. -/
theorem test_get_phase : (after (.spiGetPhase 1) spi).map (·.events) = some [.ret .spiGetPhase (.word 0)] := by decide
/-- Q24, Q25, Q27: no fault with the clock off. -/
theorem test_fixed_accessors :
    (after (.spiSetRate 1 1000000) ready).map (fun t => (t.fault, t.refused)) = some (none, false) ∧
      (after (.spiGetRate 1) ready).map (fun t => (t.fault, t.refused)) = some (none, false) ∧
      (after (.spiGetChipSelect 0) ready).map (fun t => (t.fault, t.refused)) = some (none, false) := by decide
/-- Q26. -/
theorem test_set_chip_select :
    (after (.spiSetChipSelect 0 3) ready).map (fun t => (t.ser, t.events)) =
      some (ready.ser, [.ret .spiSetChipSelect .unit]) := by decide
/-- B7v. -/
theorem test_dispatch :
    (after (.irqDispatch (.dma 5))
      { gated.setChan 5 { chan0 with imr := 2 } with dmaMasked := gated.dmaMasked.set 5 false }).map (·.cur) =
      some (some ⟨.dmaHandleIrq 5, 0, 0⟩) := by decide
/-- B5v. -/
theorem test_dispatch_masked :
    (after (.irqDispatch (.dma 5)) (gated.setChan 5 { chan0 with imr := 2 })).map (·.cur) = some none := by decide
/-- S1. -/
theorem test_dma_step :
    (after (.evDmaStep 5 0) moving).map (fun t => ((t.chan 5).mar, (t.chan 5).tcr, t.events)) =
      some (0x20001001, 7, [.periphTx .twim1Tx 0x10]) := by decide
/-- S8; and 92 D17: any mode but 0 is refused. -/
theorem test_dma_step_wraps :
    (after (.evDmaStep 6 0x77)
      { moving.setChan 6 { chan0 with psr := 6, mar := 0xFFFFFFFF, tcr := 1, ten := true } with
        bufs := [⟨⟨9, 0xFFFFFFFF, 1⟩, .chan 6⟩] }).map
      (fun t => (memRead t.mem 0xFFFFFFFF, (t.chan 6).mar, (t.chan 6).tcr)) = some (0x77, 0, 0) ∧
      (after (.evDmaStep 5 0) (moving.setChan 5 { moving5 with mr := 0x10 })).map (·.refused) = some true := by decide
/-- H1. -/
theorem test_load :
    (after (.evSerLoad 0) (ready.setEng 0 { uart0 with thr := 0x41, thrFull := true })).map
      (fun t => ((t.eng 0).shift, serTxrdy (t.eng 0))) = some (some 0x41, true) := by decide
/-- H3. -/
theorem test_shift :
    (after (.evSerShift 0 0x99) (ready.setEng 0 { uart0 with shift := some 0x41 })).map
      (fun t => ((t.eng 0).shift, (t.eng 0).rxrdy, t.events)) = some (none, false, [.txLine 0 0x41]) := by decide
/-- H11. -/
theorem test_shift_spi :
    (after (.evSerShift 1 0x5B) (ready.setEng 1 { spi0 with rxen := true, rxrdy := true, shift := some 0xA2 })).map
      (fun t => ((t.eng 1).rhr, (t.eng 1).ovre, t.events)) = some (0x5B, true, [.txLine 1 0xA2]) := by decide
/-- H6. -/
theorem test_arrive :
    (after (.evSerRxArrive 0 0x66) (ready.setEng 0 { uart0 with rxen := true, rxrdy := true, rhr := 0x55 })).map
      (fun t => ((t.eng 0).rhr, (t.eng 0).ovre)) = some (0x66, true) := by decide
/-- H7. -/
theorem test_arrive_spi :
    (after (.evSerRxArrive 0 0x66) (ready.setEng 0 { spi0 with rxen := true })).map (fun t => t.eng 0) =
      some { spi0 with rxen := true } := by decide
/-- X1, X2. -/
theorem test_hard_fault :
    (after .evHardFault (entered (.serSendByte 0 1) ready)).map (fun t => (t.fault.isSome, t.cur)) = some (true, none) := by
  decide

/-! ## Witnesses: a state and operands that meet the hypotheses of each obligation, clause by clause -/

/-- The state with a schedule. -/
def turn (s : State) (l : List Turn) : State := { s with sched := { s.sched with input := l } }

theorem witness_DecodeEncode :
    WellFormed (.serReadWriteBytes 3 ⟨2 ^ 32 - 1, 0xFFFFFFFF, 1⟩ (some ⟨0, 0, 2 ^ 32⟩) 0xFFFFFFFF) ∧
      WellFormed (.regFieldSet 31 31 0xFFFFFFFF 0) := by decide

theorem witness_EncodeDecode : decode [0xC0C00100, 5] = .ok (.irqDispatch (.ser 3), [5]) := by rfl

theorem witness_ReservedWordsRefused :
    (∀ o : Op, o.code ≠ wordOpc 0xF8000000) ∧ (∀ o : Op, o.code ≠ wordOpc 0x00000000) ∧
      Op.code .dmaEnable = wordOpc 0x21400001 ∧ 0x21400001 &&& Op.maskWord .dmaEnable ≠ Op.matchWord .dmaEnable := by
  refine ⟨?_, ?_, by decide, by decide⟩ <;> intro o <;> cases o <;> decide

theorem witness_FieldChecks :
    (decodeOp 0x6D000000 = .ok .serInitSpi ∧ Config.nSer ≤ (wordIdx 0x6D000000).toNat) ∧
      (decodeOp 0xC1000100 = .ok .irqDispatch ∧ wordKind 0xC1000100 = true ∧ Config.nSer ≤ (wordIdx 0xC1000100).toNat) ∧
      (decodeOp 0x29670000 = .ok .dmaProgram ∧ ∀ p : Pid, p.code ≠ (wordPid 0x29670000).toNat) ∧
      (decodeOp 0x78CD0000 = .ok .serDmaDone ∧ (wordIdx 0x78CD0000).toNat < Config.nSer ∧
        ∀ p : Pid, p.code ≠ (wordPid 0x78CD0000).toNat) ∧
      (decodeOp 0x0C000001 = .ok .regFieldGet ∧ wordHi 0x0C000001 < wordLo 0x0C000001) := by
  refine ⟨⟨rfl, by decide⟩, ⟨rfl, by decide, by decide⟩, ⟨rfl, ?_⟩, ⟨rfl, by decide, ?_⟩, ⟨rfl, by decide⟩⟩ <;>
    intro p <;> cases p <;> decide

theorem witness_StepRunsInstruction_turns :
    (decode [0x21400000] = .ok (.dmaEnable 5, []) ∧ (turn ready [.host [0x21400000] none]).sched.booted = true ∧
        (turn ready [.host [0x21400000] none]).Running ∧ (turn ready [.host [0x21400000] none]).cur = none) ∧
      decode [0xC8000000] = .ok (.evSerLoad 0, []) ∧ (turn ready [.agent [0xC8000000] true]).Running ∧
        Op.hostMayIssue .evSerLoad = false := by
  refine ⟨⟨rfl, by decide⟩, rfl, by decide, rfl⟩

theorem witness_StepRunsInstruction_busy :
    (entered (.serSendByte 0 1) ready).Running ∧ (entered (.serSendByte 0 1) ready).sched.booted = true ∧
      (entered (.serSendByte 0 1) ready).cur = some ⟨.serSendByte 0 1, 0, 0⟩ ∧
      (turn (entered (.serSendByte 0 1) ready) [.cpu none]).sched.input = .cpu none :: [] := by decide

theorem witness_HostIssueRefused :
    (decode [0x39400000] = .ok (.dmaHandleIrq 5, []) ∧ Op.hostMayIssue .dmaHandleIrq = false) ∧
      decode [0x00000000] = .error .reservedEncoding ∧ (turn ready [.host [0x00000000] none]).Running ∧
      (turn ready [.host [0x00000000] none]).cur = none ∧ (turn ready [.host [0x00000000] none]).sched.booted = true := by
  refine ⟨⟨rfl, rfl⟩, rfl, by decide⟩

theorem witness_StoppedAndBusyMachines :
    ({ ready with refused := true } : State).sched.booted = true ∧
      ((turn (raise (.noDmaChannel 0) ready) [.host [] none]).refused = false ∧
        (turn (raise (.noDmaChannel 0) ready) [.host [] none]).fault.isSome = true) ∧
      (raise (.noDmaChannel 0) ready).sched.input = [] ∧
      (entered (.serSendByte 0 1) ready).Running ∧ Instr.serSendByte 0 1 ≠ .serSendByte 0 2 := by decide

theorem witness_AddressMap :
    regAt 0x400A2000 = some (.chan 0 .mar) ∧ regAt 0x400A23EC = some (.chan 15 .isr) ∧
      regAt 0x40024000 = some (.ser 0 .cr) ∧ regAt 0x40030028 = some (.ser 3 .ttgr) ∧
      (0x400A2149 : Word).toNat % 4 ≠ 0 := by decide

theorem witness_RegisterOperations :
    attached.Ready ∧ regAt 0x400A2000 = some (.chan 0 .mar) ∧ clocked attached (.chan 0 .mar) = true ∧
      (∀ e, RegRef.chan 0 .mar ≠ .ser e .thr) ∧
      regAt 0x40024028 = some (.ser 0 .ttgr) ∧ clocked attached (.ser 0 .ttgr) = true := by decide

theorem witness_RegisterOperationStops :
    ready.Ready ∧ regAt 0x400A214C = none ∧ regAt 0x400A2148 = some (.chan 5 .tcr) ∧
      clocked ready (.chan 5 .tcr) = false ∧ regAt 0x40024014 = some (.ser 0 .csr) ∧
      clocked ready (.ser 0 .csr) = false := by decide

theorem witness_ChannelRegisterReads : gated.Ready ∧ gated.dmaGate = true := by decide
theorem witness_ChannelRegisterWrites : moving.Ready ∧ moving.dmaGate = true := by decide
theorem witness_SerialRegisterReads : attached.Ready ∧ (attached.eng 0).clkOn = true := by decide

theorem witness_SerialRegisterWrites :
    (attached.Ready ∧ (attached.eng 0).clkOn = true ∧ (attached.eng 0).thrFull = false) ∧
      (ready.setEng 0 { uart0 with thrFull := true }).Ready ∧
      ((ready.setEng 0 { uart0 with thrFull := true }).eng 0).thrFull = true := by decide

theorem witness_SerialControlWrites :
    attached.Ready ∧ (attached.eng 0).clkOn = true ∧
      ((0x48 : Word).getLsbD 6 && (0x48 : Word).getLsbD 3 && !(0x48 : Word).getLsbD 7) = true ∧
      ((0xC01FC : Word).getLsbD 6 && (0xC01FC : Word).getLsbD 3 && !(0xC01FC : Word).getLsbD 7) = false := by decide

theorem witness_BitFields : (0 : Fin 32) ≤ 31 ∧ (31 : Fin 32) ≤ 31 ∧ (0 : Fin 32) ≤ 0 := by decide
theorem witness_EnableAndDisable : ready.Ready ∧ gated.Ready := by decide

/-- S0 with channel 5 enabled. -/
def enabled5 : State :=
  { gated.setChan 5 { chan0 with enabled := true } with dmaCount := 1, dmaMasked := ready.dmaMasked.set 5 false }

theorem witness_EnableDisableNetZero :
    (ready.Ready ∧ ClockInv ready ∧ (ready.chan 5).enabled = false) ∧
      enabled5.Ready ∧ ClockInv enabled5 ∧ (enabled5.chan 5).enabled = true := by
  unfold ClockInv
  decide

theorem witness_ProgramResult :
    gated.Ready ∧ gated.dmaGate = true ∧ bufOwner gated.bufs 7 = .host ∧ (gated.chan 5).slot = none ∧
      min (70000 : Word).toNat 65535 ≤ 65535 := by decide

theorem witness_DoTransferResult :
    gated.Ready ∧ gated.dmaGate = true ∧ bufOwner gated.bufs b1.id = .host ∧ (gated.chan 15).slot = none ∧
      min (0 : Word).toNat b1.cap ≤ 65535 := by decide

theorem witness_ProgramChecks :
    (moving.Ready ∧ bufOwner moving.bufs b1.id ≠ .host) ∧
      (bufOwner moving.bufs b2.id = .host ∧ (moving.chan 5).slot = some b1) ∧
      (ready.Ready ∧ bufOwner ready.bufs 6 = .host ∧ (ready.chan 5).slot = none ∧
        65535 < min (65536 : Word).toNat 65536) ∧
      min (65535 : Word).toNat 65536 ≤ 65535 ∧ ready.dmaGate = false := by decide

theorem witness_StartAndCount : moving.Ready ∧ moving.dmaGate = true := by decide

theorem witness_AbortResult :
    moving.Ready ∧ moving.dmaGate = true ∧
      (after (.dmaAbort 5) moving).map (fun t => (t.refused, t.fault)) = some (false, none) := by decide

theorem witness_GatedOperations : ready.Ready ∧ ready.dmaGate = false ∧ (ready.eng 0).clkOn = false := by decide

theorem witness_Registration :
    (ready.Ready ∧ (ready.eng 3).dma = none ∧ (ready.chan 15).client = none ∧ Pid.dir .usart0Tx = .tx) ∧
      attached.Ready ∧ ¬ ((attached.eng 0).dma = none ∧ (attached.chan 3).client = none ∧ Pid.dir .usart0Tx = .tx) := by
  decide

theorem witness_DispatchResult_channel :
    let s : State := { gated.setChan 5 { chan0 with imr := 2 } with dmaMasked := gated.dmaMasked.set 5 false }
    s.Running ∧ s.cur = none ∧ s.dmaMasked.get 5 = false ∧ (s.chan 5).tcr = 0 ∧ (s.chan 5).imr.getLsbD 1 = true ∧
      s.dmaMasked.get 6 = true := by decide

theorem witness_DispatchResult_serial :
    (exchange 0).Running ∧ (exchange 0).cur = none ∧ (exchange 0).serMasked.get 1 = false ∧
      ((exchange 0).eng 1).rxrdy = true ∧ ((exchange 0).eng 1).imr.getLsbD 0 = true ∧
      ((exchange 0).eng 2).rxrdy = false ∧ ((exchange 0).eng 2).txen = false ∧ ((exchange 0).eng 2).ovre = false := by decide

theorem witness_ChannelHandler :
    let s (x : Chan) : State := entered (.dmaHandleIrq 5) (gated.setChan 5 x)
    ((s { chan0 with psr := 0x118 }).AtEntry (.dmaHandleIrq 5) ∧ decodeSelector 0x118 = none) ∧
      (s { chan0 with psr := 0x18 }).AtEntry (.dmaHandleIrq 5) ∧ decodeSelector 0x18 = some .twim1Tx ∧
      (s { chan0 with psr := 0x18 }).dmaGate = true ∧ ((s { chan0 with psr := 0x18 }).chan 5).client = none ∧
      ((s { chan0 with psr := 0x18, client := some (.ext 7) }).chan 5).client = some (.ext 7) := by decide

theorem witness_DmaDoneHandler :
    ((entered (.serDmaDone 0 .usart0Tx) sent).AtEntry (.serDmaDone 0 .usart0Tx) ∧ sent.dmaGate = true ∧
        (sent.eng 0).dma = some (2, .usart0Tx) ∧ (sent.chan 2).slot = some b4 ∧ (sent.eng 0).client = .uartClient 1) ∧
      ((entered (.dmaHandleIrq 2) sent).AtEntry (.dmaHandleIrq 2) ∧ (sent.chan 2).client = some (.serEngine 0) ∧
        (decodeSelector (sent.chan 2).psr).isSome = true) ∧
      (attached.chan 2).slot = none ∧ (attached.eng 0).dma = some (2, .usart0Tx) := by decide

theorem witness_DmaTransmitStep :
    (moving.Running ∧ moving.dmaGate = true ∧ (moving.chan 5).ten = true ∧ (moving.chan 5).tcr ≠ 0 ∧
        (moving.chan 5).mr = 0 ∧ decodeSelector (moving.chan 5).psr = some .twim1Tx ∧
        Pid.dir .twim1Tx = .tx ∧ ownsAddr moving.bufs (.chan 5) (moving.chan 5).mar = true) ∧
      (periphOf .twim1Tx = .external (.twim 1) ∧ moving.sched.extReq = true) ∧
      periphOf .usart0Tx = .engine 0 ∧ (attached.eng 0).clkOn = true ∧ (attached.eng 0).txen = true ∧
      (attached.eng 0).thrFull = false := by decide

/-- Channel 6 receiving into the last byte of the address space (S8). -/
def receiving : State :=
  { moving.setChan 6 { chan0 with psr := 6, mar := 0xFFFFFFFF, tcr := 1, ten := true } with
    bufs := [⟨⟨9, 0xFFFFFFFF, 1⟩, .chan 6⟩] }

theorem witness_DmaReceiveStep :
    (receiving.Running ∧ receiving.dmaGate = true ∧ (receiving.chan 6).ten = true ∧ (receiving.chan 6).tcr ≠ 0 ∧
        (receiving.chan 6).mr = 0 ∧ decodeSelector (receiving.chan 6).psr = some .twim1Rx ∧
        Pid.dir .twim1Rx = .rx ∧ ownsAddr receiving.bufs (.chan 6) (receiving.chan 6).mar = true) ∧
      Memory.wf receiving.mem = true ∧ periphOf .twim1Rx = .external (.twim 1) ∧ receiving.sched.extReq = true ∧
      periphOf .usart1Rx = .engine 1 ∧ ((exchange 0).eng 1).rxrdy = true := by decide

theorem witness_DmaStepStops :
    (ready.Running ∧ ready.dmaGate = false) ∧ (moving.chan 4).ten = false ∧
      (decodeSelector (attached.chan 3).psr = some .usart0Rx ∧ periphOf .usart0Rx = .engine 0 ∧
        (attached.eng 0).rxrdy = false) ∧
      (moving.Running ∧ decodeSelector (moving.chan 5).psr = some .twim1Tx ∧ (moving.chan 5).ten = true ∧
        (moving.chan 5).tcr ≠ 0 ∧ moving.sched.extReq = true) ∧
      ({ moving with bufs := [] } : State).Running ∧ ownsAddr [] (.chan 5) (moving.chan 5).mar = false ∧
      ({ moving5 with mr := 0x10 } : Chan).mr ≠ 0 := by decide

theorem witness_ConfigureUart :
    ready.Ready ∧ engineBusy ready 0 = false ∧
      Config.baudDivisor Config.refClkHz (3000000 : Word).toNat Config.overSel = 1 ∧
      Config.baudDivisor Config.refClkHz (46 : Word).toNat Config.overSel = 65217 := by decide

theorem witness_InitSpi : ready.Ready ∧ engineBusy ready 3 = false := by decide

theorem witness_ConfigurationStops :
    (sent.Ready ∧ engineBusy sent 0 = true) ∧ engineBusy ready 0 = false ∧
      Config.baudDivisor Config.refClkHz (3000001 : Word).toNat Config.overSel = 0 ∧
      65535 < Config.baudDivisor Config.refClkHz (45 : Word).toNat Config.overSel := by decide

theorem witness_SendByte :
    (ready.Ready ∧ (ready.eng 0).mode ≠ .uart) ∧ attached.Ready ∧ (attached.eng 0).mode = .uart ∧
      (attached.eng 0).clkOn = true ∧ (attached.eng 0).txen = true ∧ (attached.eng 0).thrFull = false := by decide

theorem witness_SendBytes :
    (sent.Ready ∧ bufOwner sent.bufs b4.id ≠ .host) ∧ (ready.eng 0).mode ≠ .uart ∧
      (ready.setEng 0 uart0).Ready ∧ ((ready.setEng 0 uart0).eng 0).mode = .uart ∧
      ((ready.setEng 0 uart0).eng 0).dma = none ∧ (sent.chan 2).slot.isSome = true ∧
      attached.Ready ∧ bufOwner attached.bufs b4.id = .host ∧ (attached.eng 0).mode = .uart ∧
      (attached.eng 0).dma = some (2, .usart0Tx) ∧ (attached.chan 2).slot = none ∧ attached.dmaGate = true ∧
      min (10 : Word).toNat b4.cap ≤ 65535 ∧ 65535 < min (65536 : Word).toNat 65536 ∧
      ({ attached with dmaGate := false } : State).Ready ∧ ({ attached with dmaGate := false } : State).dmaGate = false := by
  decide

theorem witness_SerialHandler :
    let s (x : Ser) : State := entered (.serHandleIrq 0) (ready.setEng 0 x)
    ((s uart0).AtEntry (.serHandleIrq 0) ∧ ((s uart0).eng 0).clkOn = true ∧ ((s uart0).eng 0).rxrdy = false) ∧
      ∀ x ∈ [{ uart0 with rxrdy := true }, { uart0 with rxrdy := true, client := .uartClient 1 },
          { uart0 with rxrdy := true, client := .spiClient 2 }, { spi0 with rxrdy := true },
          { eng0 with rxrdy := true, clkOn := true }],
        ((s x).AtEntry (.serHandleIrq 0) ∧ ((s x).eng 0).clkOn = true ∧ ((s x).eng 0).rxrdy = true) := by decide

theorem witness_TransmitterAndReceiverEnables : attached.Ready ∧ (attached.eng 0).clkOn = true := by decide

theorem witness_ExchangeStart :
    spi.Ready ∧ bufOwner spi.bufs bw.id = .host ∧ bufOwner spi.bufs br.id = .host ∧ br.id ≠ bw.id ∧
      (spi.eng 1).mode = .spi ∧ (spi.eng 1).clkOn = true ∧ (spi.eng 1).ctx = none ∧ 1 ≤ (3 : Word).toNat ∧
      (3 : Word).toNat ≤ bw.cap ∧ (3 : Word).toNat ≤ br.cap ∧ (spi.eng 1).thrFull = false := by decide

theorem witness_ExchangeChecks :
    ((exchange 0).Ready ∧ bufOwner (exchange 0).bufs bw.id ≠ .host) ∧ (spi.eng 0).mode ≠ .spi ∧
      ((exchange 0).eng 1).ctx.isSome = true ∧ bufOwner (exchange 0).bufs b4.id = .host ∧ spi.Ready ∧
      (spi.eng 1).ctx = none ∧ ¬ (1 ≤ (0 : Word).toNat) ∧ ¬ ((4 : Word).toNat ≤ bw.cap) := by decide

theorem witness_ExchangeMiddle_stops :
    let s (bs : BufTable) (full : Bool) : State :=
      { entered (.serHandleIrq 1) (exchange 1) with bufs := bs }.setEng 1 { (exchange 1).eng 1 with thrFull := full }
    ((s [] false).AtEntry (.serHandleIrq 1) ∧ ownsAddr (s [] false).bufs (.ser 1) (br.addr + 1) = false) ∧
      (ownsAddr (s [⟨br, .ser 1⟩] false).bufs (.ser 1) (br.addr + 1) = true ∧
        ownsAddr (s [⟨br, .ser 1⟩] false).bufs (.ser 1) (bw.addr + 2) = false) ∧
      ((s (exchange 1).bufs true).AtEntry (.serHandleIrq 1) ∧ ((s (exchange 1).bufs true).eng 1).thrFull = true ∧
        ((s (exchange 1).bufs true).eng 1).ctx = some ⟨bw, some br, 3, 1⟩) := by decide

theorem witness_ExchangeMiddle :
    let s := entered (.serHandleIrq 1) (exchange 1)
    s.AtEntry (.serHandleIrq 1) ∧ (s.eng 1).clkOn = true ∧ (s.eng 1).rxrdy = true ∧ (s.eng 1).mode = .spi ∧
      (s.eng 1).ctx = some ⟨bw, some br, 3, 1⟩ ∧ (s.eng 1).thrFull = false ∧ Memory.wf s.mem = true ∧
      ownsAddr s.bufs (.ser 1) (br.addr + 1) = true ∧ ownsAddr s.bufs (.ser 1) (bw.addr + 2) = true := by decide

theorem witness_ExchangeEnd :
    let s := entered (.serHandleIrq 1) (exchange 2)
    s.AtEntry (.serHandleIrq 1) ∧ (s.eng 1).clkOn = true ∧ (s.eng 1).rxrdy = true ∧ (s.eng 1).mode = .spi ∧
      (s.eng 1).ctx = some ⟨bw, some br, 3, 2⟩ ∧ Memory.wf s.mem = true ∧
      ownsAddr s.bufs (.ser 1) (br.addr + 2) = true ∧ (s.eng 1).client = .spiClient 2 := by decide

theorem witness_SpiAccessors : attached.Ready ∧ (attached.eng 0).clkOn = true ∧ ready.Ready := by decide

/-- With S0 no step is enabled; with engine 0 attached and a byte pending, the shifter's is; in `fired` only channel 5's
dispatch is. -/
theorem witness_UnscheduledSteps :
    (ready.sched.booted = true ∧ ready.Running ∧ ready.sched.input = [] ∧ freeSteps ready = []) ∧
      freeSteps (ready.setEng 0 { uart0 with thrFull := true }) = [.evSerLoad 0] ∧
      (fired.sched.booted = true ∧ fired.Running ∧ fired.sched.input = [] ∧ fired.cur = none ∧
        (∀ c, (fired.dmaMasked.get c = false ∧
          (((fired.chan c).tcr = 0 ∧ (fired.chan c).imr.getLsbD 1 = true) ∨ (fired.chan c).imr.getLsbD 0 = true)) ↔ c = 5) ∧
        (∀ e, (fired.eng e).clkOn = false ∧ (fired.eng e).imr = 0) ∧ (∀ c, (fired.chan c).ten = false) ∧
        (fired.chan 5).client = none ∧ fired.dmaGate = true ∧ decodeSelector (fired.chan 5).psr = some .twim1Tx) := by
  decide

theorem witness_ShifterSteps :
    (ready.setEng 0 { uart0 with thrFull := true }).Running ∧ uart0.mr.extractLsb' 0 4 = 0x0#4 ∧
      spi0.mr.extractLsb' 0 4 = 0xE#4 ∧ uart0.shift = none ∧ uart0.txen = true ∧ uart0.clkOn = true := by decide

theorem witness_ShifterStops :
    ready.Running ∧ (ready.eng 0).clkOn = false ∧ (ready.eng 0).shift = none ∧ (ready.eng 0).rxen = false ∧
      (ready.setEng 0 { uart0 with mr := 1, thrFull := true, rxen := true }).Running ∧
      (1 : Word).extractLsb' 0 4 ≠ 0x0#4 ∧ (1 : Word).extractLsb' 0 4 ≠ 0xE#4 := by decide

theorem witness_HardFaultTrap : (entered (.serSendByte 0 1) ready).Running := by decide

theorem witness_CanonicalDataKept :
    DataInv (exchange 0) ∧ (stepped (turn (exchange 0) [.agent [0xC0400100] false])).isSome = true := by
  unfold DataInv
  decide

theorem witness_ClockInvariantKept :
    ClockInv (turn enabled5 [.host [0x25400000] none]) ∧
      (stepped (turn enabled5 [.host [0x25400000] none])).map (·.dmaCount) = some 0 := by
  unfold ClockInv
  decide

/-- An exchange in progress meets the ownership invariant. -/
theorem witness_OwnershipKept_exchange : DataInv (exchange 0) ∧ OwnershipInv (exchange 0) := by
  have hs : ∀ c, ((exchange 0).chan c).slot = none := by decide
  have hn : ∀ e : SerIx, e ≠ 1 → ((exchange 0).eng e).ctx = none := by decide
  have h1 : ((exchange 0).eng 1).ctx = some ⟨bw, some br, 3, 0⟩ := by decide
  refine ⟨⟨rfl, rfl⟩, fun c b h => ?_, fun e x h => ?_, fun e x h => ?_, trivial⟩
  · rw [hs] at h
    cases h
  · by_cases he : e = 1
    · subst he
      rw [h1] at h
      cases h
      refine ⟨by decide, by decide, by decide, fun rb hr => ?_⟩
      cases hr
      decide
    · rw [hn e he] at h
      cases h
  · by_cases he : e = 1
    · subst he
      rfl
    · rw [hn e he] at h
      cases h

theorem witness_OwnershipKept : (stepped (turn (exchange 0) [.agent [0xC0400100] false])).isSome = true := by decide

/-- An attached engine meets the attachment invariant. -/
theorem witness_AttachmentKept :
    BindInv attached ∧ (stepped (turn attached [.host [0x64000041] none])).isSome = true := by
  have hn : ∀ c : ChanIx, c ≠ 2 → (attached.chan c).client = none := by decide
  refine ⟨fun c e h => ?_, by decide⟩
  by_cases hc : c = 2
  · subst hc
    have h2 : (attached.chan 2).client = some (.serEngine 0) := by decide
    rw [h2] at h
    cases h
    exact ⟨.usart0Tx, by decide⟩
  · rw [hn c hc] at h
    cases h

theorem witness_HistoryOnlyGrows :
    (stepped (turn (raise (.noDmaChannel 0) ready) [.host [] none])).map (·.fault) = some (some (.noDmaChannel 0)) ∧
      (stepped { ready with refused := true, sched := { ready.sched with booted := false } }).map (·.refused) = some true := by
  decide

theorem witness_EngineStaysConfigured :
    (attached.eng 0).mode ≠ .unused ∧ (attached.eng 0).clkOn = true ∧ attached.serMasked.get 0 = false ∧
      (stepped (turn attached [.host [0x64000041] none])).isSome = true := by decide

theorem witness_MemoryIsolation :
    (stepped (turn receiving [.agent [0xC5800077] true])).map (fun t => memRead t.mem 0xFFFFFFFF) = some 0x77 ∧
      memRead receiving.mem 0xFFFFFFFF = 0 := by decide

theorem witness_StartBitPersists :
    (moving.chan 5).ten = true ∧ (after (.dmaAbort 5) moving).isSome = true ∧ Op.dmaAbort ≠ .regWrite := by decide

theorem witness_TurnsCompose :
    gated.Running ∧ Op.hostMayIssue .dmaProgram = true ∧
      (after (.dmaProgram 5 .twim1Tx b1 8) (gated.withBurst (some 2))).map (fun t => (t.cur, t.refused)) =
        some (some ⟨.dmaProgram 5 .twim1Tx b1 8, 2, 0⟩, false) := by decide

end Sys2Proof.Tests
end

section
/-! PROOF. The bits of a bit-field read and write (00_scope R18, 20_memory R95). The mask of a range has exactly the bits of
the range, also for an empty one; what FieldGet returns and FieldSet writes is read off it bit by bit. -/

namespace Sys2Proof.Machine

/-- The mask has ones in bits `hi..lo` and nowhere else; that a range with `hi < lo` has an empty mask is the shift's doing. -/
@[simp] theorem fieldMask_getLsbD (hi lo : Fin 32) (j : Nat) :
    (fieldMask hi lo).getLsbD j = decide (lo.val ≤ j ∧ j ≤ hi.val) := by
  simp only [fieldMask, BitVec.getLsbD_shiftLeft, BitVec.getLsbD_ushiftRight, BitVec.getLsbD_allOnes]
  rw [Bool.eq_iff_iff]
  simp only [Bool.and_eq_true, Bool.not_eq_true', decide_eq_true_eq, decide_eq_false_iff_not]
  omega

theorem fieldGet_getLsbD (v : Word) (hi lo : Fin 32) (j : Nat) :
    (fieldGet v hi lo).getLsbD j = (decide (lo.val + j ≤ hi.val) && v.getLsbD (lo.val + j)) := by
  simp [fieldGet, Bool.and_comm]

theorem fieldPut_getLsbD (t v : Word) (hi lo : Fin 32) (j : Nat) :
    (fieldPut t hi lo v).getLsbD j =
      if lo.val ≤ j ∧ j ≤ hi.val then v.getLsbD (j - lo.val) else t.getLsbD j := by
  simp only [fieldPut, BitVec.getLsbD_or, BitVec.getLsbD_and, BitVec.getLsbD_not, BitVec.getLsbD_shiftLeft,
    fieldMask_getLsbD]
  by_cases hj : lo.val ≤ j ∧ j ≤ hi.val
  · have hw : j < 32 := by omega
    simp [hj, hw]
  · by_cases hw : j < 32
    · simp [hj, hw]
    · simp [hj, BitVec.getLsbD_of_ge t j (by omega)]

/-- Settles O18, bit by bit from the bits of the mask. -/
theorem bitFields : Obligations.BitFields :=
  fun hi lo t v j _ => ⟨fieldGet_getLsbD v hi lo j, fieldPut_getLsbD t v hi lo j⟩

end Sys2Proof.Machine
end

section
/-! PROOF. What a step of a booted, running machine is (00_scope R7, R21; 20_memory R97; 42 R240, R243): one equation for
each kind of turn, and the step that follows from it. -/

namespace Sys2Proof.Machine

variable {s : State} {ws : List Word} {rest : List Turn} {i : Instr} {tl : List Word} {c : Cur}

/-- With the boot step done, the run not refused and no fault recorded, the step is the next turn's. -/
theorem step_eq_takeTurn (hb : s.sched.booted = true) (hr : s.Running) : step s = takeTurn s := by
  obtain ⟨hrefused, hfault⟩ := hr
  simp [step, stepOnce, hb, hrefused, hfault]

theorem issue_of_decode (hd : decode ws = .ok (i, tl)) (hi : i.op.hostMayIssue = true) : issue ws s = exec i s := by
  simp [issue, hd, hi]

theorem agentStep_of_decode (hd : decode ws = .ok (i, tl)) (hi : i.op.hostMayIssue = false) :
    agentStep ws s = exec i s := by
  simp [agentStep, hd, hi]

theorem takeTurn_host_idle {b : Option Nat} (hin : s.sched.input = .host ws b :: rest) (hc : s.cur = none) :
    takeTurn s = issue ws ((s.popTurn rest).withBurst b) := by
  simp [takeTurn, hin, hc]

/-- The host's turn stays in the schedule while the CPU agent goes on with the operation in progress (R240). -/
theorem takeTurn_host_busy {b : Option Nat} (hin : s.sched.input = .host ws b :: rest) (hc : s.cur = some c) :
    takeTurn s = exec c.op (s.withBurst none) := by
  simp [takeTurn, hin, hc]

theorem takeTurn_cpu_busy {b : Option Nat} (hin : s.sched.input = .cpu b :: rest) (hc : s.cur = some c) :
    takeTurn s = exec c.op ((s.popTurn rest).withBurst b) := by
  simp [takeTurn, hin, hc]

/-- An agent other than the host moves whether or not an operation is in progress (R97). -/
theorem takeTurn_agent {q : Bool} (hin : s.sched.input = .agent ws q :: rest) :
    takeTurn s = agentStep ws ((s.popTurn rest).withExtReq q) := by
  simp [takeTurn, hin]

/-- Settles O7, by the equation of each kind of turn. -/
theorem stepRunsInstruction : Obligations.StepRunsInstruction := by
  intro s ws rest hb hr
  rw [step_eq_takeTurn hb hr]
  refine ⟨fun i tl hd => ⟨fun b hin hc hi => ?_, fun q hin hi => ?_⟩, fun c hc => ⟨fun b hin => ?_, fun b hin => ?_⟩⟩
  · rw [takeTurn_host_idle hin hc, issue_of_decode hd hi]
  · rw [takeTurn_agent hin, agentStep_of_decode hd hi]
  · exact takeTurn_cpu_busy hin hc
  · exact takeTurn_host_busy hin hc

end Sys2Proof.Machine
end

section
/-! PROOF. Minor changes (00_scope R21; 20_memory R91 to R94; R351, R360). A register access, an event, a fault, a refusal and
every hardware step but a memory write leave alone the software's part of each channel and engine, the counter, the gate, the
masks, the buffer table and memory: they are `Minor`. What a step of an operation comes to is read with `Micro.Sat`, and the
operations that only access registers are minor in every step. -/

namespace Sys2Proof.Machine

/-- The software's part of a channel (R39 to R41). -/
def Chan.soft (x : Chan) : Bool × Option DmaClient × Option Buf := (x.enabled, x.client, x.slot)

/-- The software's part of an engine, and its clock (R51 to R55). -/
def Ser.soft (x : Ser) : Mode × SerClient × Option (ChanIx × Pid) × Option SpiCtx × Bool :=
  (x.mode, x.client, x.dma, x.ctx, x.clkOn)

/-- The CPU agent's place is the one it had, or it is between operations. -/
def CurKept (s t : State) : Prop := t.cur = none ∨ t.cur = s.cur

theorem CurKept.trans {s t u : State} (h : CurKept s t) (h' : CurKept t u) : CurKept s u :=
  h'.elim .inl fun q => h.imp q.trans q.trans

/-- `t` comes from `s` by changes of registers and of the model's own inputs, by events, or by a fault or a refusal. -/
structure Minor (s t : State) : Prop where
  cur : CurKept s t
  dmaCount : t.dmaCount = s.dmaCount
  dmaGate : t.dmaGate = s.dmaGate
  dmaMasked : t.dmaMasked = s.dmaMasked
  serMasked : t.serMasked = s.serMasked
  bufs : t.bufs = s.bufs
  mem : t.mem = s.mem
  chan : ∀ c, (t.chan c).soft = (s.chan c).soft
  eng : ∀ e, (t.eng e).soft = (s.eng e).soft
  events : ∃ evs, t.events = s.events ++ evs

namespace Minor

variable {s t u : State}

theorem enabled (h : Minor s t) (c : ChanIx) : (t.chan c).enabled = (s.chan c).enabled :=
  congrArg (·.1) (h.chan c)

theorem slot (h : Minor s t) (c : ChanIx) : (t.chan c).slot = (s.chan c).slot := congrArg (·.2.2) (h.chan c)

theorem mode (h : Minor s t) (e : SerIx) : (t.eng e).mode = (s.eng e).mode := congrArg (·.1) (h.eng e)

theorem dma (h : Minor s t) (e : SerIx) : (t.eng e).dma = (s.eng e).dma := congrArg (·.2.2.1) (h.eng e)

theorem ctx (h : Minor s t) (e : SerIx) : (t.eng e).ctx = (s.eng e).ctx := congrArg (·.2.2.2.1) (h.eng e)

protected theorem refl (s : State) : Minor s s where
  cur := .inr rfl
  dmaCount := rfl
  dmaGate := rfl
  dmaMasked := rfl
  serMasked := rfl
  bufs := rfl
  mem := rfl
  chan _ := rfl
  eng _ := rfl
  events := ⟨[], (List.append_nil _).symm⟩

protected theorem trans (h : Minor s t) (h' : Minor t u) : Minor s u where
  cur := h.cur.trans h'.cur
  dmaCount := h'.dmaCount.trans h.dmaCount
  dmaGate := h'.dmaGate.trans h.dmaGate
  dmaMasked := h'.dmaMasked.trans h.dmaMasked
  serMasked := h'.serMasked.trans h.serMasked
  bufs := h'.bufs.trans h.bufs
  mem := h'.mem.trans h.mem
  chan c := (h'.chan c).trans (h.chan c)
  eng e := (h'.eng e).trans (h.eng e)
  events := by
    obtain ⟨evs, h⟩ := h.events
    obtain ⟨evs', h'⟩ := h'.events
    exact ⟨evs ++ evs', by rw [h', h, List.append_assoc]⟩

theorem emit (ev : Event) (s : State) : Minor s (emit ev s) := { Minor.refl s with events := ⟨[ev], rfl⟩ }

theorem raise (f : FaultRec) (s : State) : Minor s (raise f s) :=
  { Minor.refl s with cur := .inl rfl, events := ⟨[.faultReport f], rfl⟩ }

theorem refuse (r : RefuseReason) (s : State) : Minor s (refuse r s) := { Minor.refl s with }

theorem advance (s : State) (n : Nat) : Minor s (s.advance n) := { Minor.refl s with }

theorem popTurn (s : State) (rest : List Turn) : Minor s (s.popTurn rest) := { Minor.refl s with }

theorem withBurst (s : State) (b : Option Nat) : Minor s (s.withBurst b) := { Minor.refl s with }

theorem withExtReq (s : State) (q : Bool) : Minor s (s.withExtReq q) := { Minor.refl s with }

theorem finish (s : State) : Minor s (finish s) := { Minor.refl s with cur := .inl rfl }

theorem setChan {c : ChanIx} {x : Chan} (h : x.soft = (s.chan c).soft) : Minor s (s.setChan c x) :=
  { Minor.refl s with
    chan := fun c' => by
      by_cases hc : c' = c
      · subst hc; rw [setChan_chan_same, h]
      · rw [setChan_chan_other s x hc]
    eng := fun _ => rfl }

theorem setEng {e : SerIx} {x : Ser} (h : x.soft = (s.eng e).soft) : Minor s (s.setEng e x) :=
  { Minor.refl s with
    eng := fun e' => by
      by_cases he : e' = e
      · subst he; rw [setEng_eng_same, h]
      · rw [setEng_eng_other s x he]
    chan := fun _ => rfl }

end Minor

/-! ## Accesses -/

theorem chanWrite_soft (r : ChanReg) (v : Word) (x : Chan) : (chanWrite r v x).soft = x.soft := by
  obtain ⟨henabled, hclient, hslot⟩ := chanWrite_frame r v x
  simp [Chan.soft, henabled, hclient, hslot]

theorem crWrite_minor (e : SerIx) (v : Word) (s : State) : Minor s (crWrite e v s) := by
  have heng : Minor s (s.setEng e (crEngine e v (s.eng e))) := .setEng rfl
  unfold crWrite
  dsimp only
  split
  · exact heng
  · exact heng.trans (.emit _ _)

theorem thrWrite_minor (e : SerIx) (b : Byte) (s : State) : Minor s (thrWrite e b s) := by
  unfold thrWrite
  dsimp only
  split
  · refine Minor.trans (.setEng ?_) (.advance _ 1)
    rfl
  · exact .setEng rfl

theorem serWrite_minor (e : SerIx) (r : SerReg) (v : Word) (s : State) : Minor s (serWrite e r v s) := by
  cases r with
  | cr => exact crWrite_minor e v s
  | thr => exact thrWrite_minor e _ s
  | imr | csr | rhr => exact .refl s
  | mr | ier | idr | brgr | ttgr => exact .setEng rfl

theorem regWriteEffect_minor (r : RegRef) (v : Word) (s : State) : Minor s (regWriteEffect r v s) := by
  cases r with
  | chan c q => exact .setChan (chanWrite_soft q v _)
  | ser e q => exact serWrite_minor e q v s

theorem regReadEffect_minor (r : RegRef) (s : State) : Minor s (regReadEffect r s) := by
  cases r with
  | chan c q =>
    cases q with
    | cr | ier | idr => exact .advance s 1
    | mar | psr | tcr | mr | sr | imr | isr => exact .refl s
  | ser e q =>
    cases q with
    | cr | ier | idr | thr => exact .advance s 1
    | mr | imr | csr | brgr | ttgr => exact .refl s
    | rhr => exact .setEng rfl

/-- The state an access ends in, made or not, has the property. -/
def Access.Within {α : Type} (P : State → Prop) : Access α → Prop
  | .done _ s => P s
  | .stop s => P s

theorem regRead_minor (a : Word) (s : State) : (regRead a s).Within (Minor s) := by
  obtain ⟨r, _, _, h⟩ | ⟨r, _, _, h⟩ | ⟨_, h⟩ := regRead_cases a s <;> rw [h]
  · exact regReadEffect_minor r s
  · exact .raise _ s
  · exact .refuse _ s

theorem regWrite_minor (a v : Word) (s : State) : (regWrite a v s).Within (Minor s) := by
  obtain ⟨r, _, _, h⟩ | ⟨r, _, _, h⟩ | ⟨_, h⟩ := regWrite_cases a v s <;> rw [h]
  · exact regWriteEffect_minor r v s
  · exact .raise _ s
  · exact .refuse _ s

theorem byteRead_minor (who : Owner) (a : Word) (s : State) : (byteRead who a s).Within (Minor s) := by
  obtain ⟨_, h⟩ | ⟨_, h⟩ := byteRead_cases who a s <;> rw [h]
  · exact .refl s
  · exact .raise _ s

/-! ## Steps of CPU operations -/

/-- What a step comes to, by how it ends: `go k` of the state from which the operation goes on at step `k`, `ret` of the state
in which it is complete, `stop` of the state in which a fault or a refusal leaves it. -/
def Micro.Sat (go : Nat → State → Prop) (ret stop : State → Prop) : Micro → Prop
  | .go k _ s => go k s
  | .hold => True
  | .ret s => ret s
  | .stop s => stop s

/-- The state after a step has the property, however the step ends. -/
abbrev Micro.After (P : State → Prop) : Micro → Prop := Micro.Sat (fun _ => P) P P

section
variable {go go' : Nat → State → Prop} {ret ret' stop stop' : State → Prop} {s : State}

theorem Micro.Sat.mono {m : Micro} (hm : m.Sat go ret stop) (hgo : ∀ k u, go k u → go' k u) (hret : ∀ u, ret u → ret' u)
    (hstop : ∀ u, stop u → stop' u) : m.Sat go' ret' stop' := by
  cases m with
  | go k t u => exact hgo k u hm
  | hold => trivial
  | ret u => exact hret u hm
  | stop u => exact hstop u hm

/-- A step that is one access and then `f`. -/
theorem Micro.Sat.access {α : Type} {x : Access α} {f : α → State → Micro} (hx : x.Within (Minor s))
    (hstop : ∀ u, Minor s u → stop u) (hdone : ∀ v u, Minor s u → (f v u).Sat go ret stop) :
    (x.andThen f).Sat go ret stop := by
  cases x with
  | done v u => exact hdone v u hx
  | stop u => exact hstop u hx

theorem Micro.Sat.shift {m : Micro} {n : Nat} (hm : m.Sat (fun k => go (k + n)) ret stop) :
    (m.shift n).Sat go ret stop := by
  cases m <;> exact hm

end

/-- Every step of the operation makes minor changes only. -/
def Body.IsMinor (b : Body) : Prop := ∀ k t s, (b k t s).After (Minor s)

/-- A last step that is one access and returns a value. -/
theorem access_retWith_minor {α : Type} {s : State} {x : Access α} (hx : x.Within (Minor s)) (op : Op) (r : α → RetVal) :
    (x.andThen fun v u => retWith op (r v) u).After (Minor s) :=
  .access hx (fun _ h => h) fun _ _ h => h.trans (.emit _ _)

theorem regReadSteps_minor (a : Word) : (regReadSteps a).IsMinor
  | 0, _, s => access_retWith_minor (regRead_minor a s) _ _
  | _ + 1, _, _ => trivial

theorem regWriteSteps_minor (a v : Word) : (regWriteSteps a v).IsMinor
  | 0, _, s => access_retWith_minor (regWrite_minor a v s) _ _
  | _ + 1, _, _ => trivial

theorem regFieldGetSteps_minor (hi lo : Fin 32) (a : Word) : (regFieldGetSteps hi lo a).IsMinor
  | 0, _, s => access_retWith_minor (regRead_minor a s) _ _
  | _ + 1, _, _ => trivial

theorem fieldSetSteps_minor (op : Op) (a : Word) (hi lo : Fin 32) (v : Word) : (fieldSetSteps op a hi lo v).IsMinor
  | 0, _, s => .access (regRead_minor a s) (fun _ h => h) fun _ _ h => h
  | 1, _, s => access_retWith_minor (regWrite_minor a _ s) _ _
  | _ + 2, _, _ => trivial

theorem startStep_minor (op : Op) (c : ChanIx) (s : State) : (startStep op c s).After (Minor s) :=
  access_retWith_minor (regWrite_minor _ _ s) _ _

theorem dmaStartSteps_minor (c : ChanIx) : (dmaStartSteps c).IsMinor
  | 0, _, s => startStep_minor _ c s
  | _ + 1, _, _ => trivial

theorem dmaXferCountSteps_minor (c : ChanIx) : (dmaXferCountSteps c).IsMinor
  | 0, _, s => access_retWith_minor (regRead_minor _ s) _ _
  | _ + 1, _, _ => trivial

theorem serSendByteSteps_minor (e : SerIx) (b : Byte) : (serSendByteSteps e b).IsMinor
  | 0, _, s => by
    rw [serSendByteSteps]
    split
    · exact .raise _ s
    · refine .access (regRead_minor _ s) (fun _ h => h) fun v u h => ?_
      split
      · exact h
      · trivial
  | 1, _, s => access_retWith_minor (regWrite_minor _ _ s) _ _
  | _ + 2, _, _ => trivial

theorem mrBitSteps_minor (op : Op) (e : SerIx) (i : Nat) : (mrBitSteps op e i).IsMinor
  | 0, _, s => access_retWith_minor (regRead_minor _ s) _ _
  | _ + 1, _, _ => trivial

theorem fixedSteps_minor (op : Op) (v : RetVal) : (fixedSteps op v).IsMinor
  | 0, _, s => .emit _ s
  | _ + 1, _, _ => trivial

theorem crCommandSteps_minor (op : Op) (e : SerIx) (v : Word) : (crCommandSteps op e v).IsMinor
  | 0, _, s => access_retWith_minor (regWrite_minor _ _ s) _ _
  | _ + 1, _, _ => trivial

end Sys2Proof.Machine
end

section
/-! PROOF. What a step can change (10_state R31 to R66). The changes that are not minor are few: they are the constructors of
`Change`. Each operation is read once as a chain of changes: what one step of the shared steps (programming, abort) and of the
interrupt handler can do is a lemma of its own, which the ownership proofs below use as well. -/

namespace Sys2Proof.Machine

/-- One byte of memory is written. -/
def State.storeByte (s : State) (a : Word) (x : Byte) : State := { s with mem := memWrite s.mem a.toNat x }

/-- The counter after channel `c` is switched `on` or off (R180, R181, R183). -/
def countAfter (c : ChanIx) (on : Bool) (s : State) : Nat :=
  if (s.chan c).enabled = on then s.dmaCount else if on then s.dmaCount + 1 else s.dmaCount - 1

/-- The gate after channel `c` is switched `on` or off: the first channel turns it on, the last one off (R180, R183). -/
def gateAfter (c : ChanIx) (on : Bool) (s : State) : Bool :=
  if (s.chan c).enabled = on then s.dmaGate
  else if on then (if s.dmaCount + 1 = 1 then true else s.dmaGate) else if s.dmaCount - 1 = 0 then false else s.dmaGate

/-- All that DMA_ENABLE and DMA_DISABLE write (R180, R183). -/
def switchChan (c : ChanIx) (on : Bool) (s : State) : State :=
  { s.setChan c { s.chan c with enabled := on } with
    dmaCount := countAfter c on s, dmaGate := gateAfter c on s, dmaMasked := s.dmaMasked.set c.val (!on) c.isLt }

/-- One change of the machine. -/
inductive Change (s : State) : State → Prop
  | minor {t : State} (h : Minor s t) : Change s t
  /-- The CPU agent moves to another place (R31). -/
  | place (o : Option Cur) : Change s (setCur o s)
  /-- A byte of a buffer that a channel or an engine owns is written (R96). -/
  | byte {who : Owner} {a : Word} (x : Byte) (hwho : who ≠ .host) (h : ownsAddr s.bufs who a = true) :
      Change s (s.storeByte a x)
  | owner (b : Buf) (o : Owner) : Change s (setOwner b o s)
  | slot (c : ChanIx) (b : Option Buf) : Change s (s.setChan c { s.chan c with slot := b })
  /-- The client that DMA_SET_CLIENT registers is no serial engine (R197). -/
  | chanClient (c : ChanIx) {client : Option DmaClient} (h : ∀ e, client ≠ some (.serEngine e)) :
      Change s (s.setChan c { s.chan c with client := client })
  /-- Engine and channel are attached to each other in one step, once per engine and to a channel with no client (R269). -/
  | attach {e : SerIx} {c : ChanIx} (p : Pid) (he : (s.eng e).dma = none) (hc : (s.chan c).client = none) :
      Change s ((s.setEng e { s.eng e with dma := some (c, p) }).setChan c
        { s.chan c with client := some (.serEngine e) })
  /-- An engine's other software state; no engine goes back to `Unused` or has its clock turned off (R55, R258). -/
  | engine (e : SerIx) {x : Ser} (hdma : x.dma = (s.eng e).dma) (hmode : (s.eng e).mode ≠ .unused → x.mode ≠ .unused)
      (hclk : (s.eng e).clkOn = true → x.clkOn = true) : Change s (s.setEng e x)
  | switch (c : ChanIx) (on : Bool) : Change s (switchChan c on s)
  | boot : Change s (boot s)

/-- A chain of changes. -/
abbrev Moves : State → State → Prop := Relation.ReflTransGen Change

theorem Change.mode (s : State) (e : SerIx) {m : Mode} (hm : m ≠ .unused) :
    Change s (s.setEng e { s.eng e with mode := m }) := .engine e rfl (fun _ => hm) id

theorem Change.client (s : State) (e : SerIx) (client : SerClient) :
    Change s (s.setEng e { s.eng e with client := client }) := .engine e rfl id id

theorem Change.ctx (s : State) (e : SerIx) (ctx : Option SpiCtx) : Change s (s.setEng e { s.eng e with ctx := ctx }) :=
  .engine e rfl id id

theorem Change.clockOn (s : State) (e : SerIx) : Change s (setClock (.ser e) true s) := .engine e rfl id fun _ => rfl

theorem Change.moves {s t : State} (h : Change s t) : Moves s t := .single h

theorem Minor.moves {s t : State} (h : Minor s t) : Moves s t := .single (.minor h)

theorem Moves.minor {s t u : State} (h : Moves s t) (h' : Minor t u) : Moves s u := .tail h (.minor h')

theorem Moves.change {s t u : State} (h : Moves s t) (h' : Change t u) : Moves s u := .tail h h'

/-- A property that every change keeps holds after any chain of changes. -/
theorem Moves.keeps {I : State → Prop} (hI : ∀ s t, Change s t → I s → I t) {s t : State} (h : Moves s t) (hs : I s) :
    I t := by
  induction h with
  | refl => exact hs
  | tail _ h ih => exact hI _ _ h ih

/-- Every step of the operation is a chain of changes. -/
def Body.Moving (b : Body) : Prop := ∀ k t s, (b k t s).After (Moves s)

theorem Body.IsMinor.moving {b : Body} (h : b.IsMinor) : b.Moving :=
  fun k t s => (h k t s).mono (fun _ _ => Minor.moves) (fun _ => Minor.moves) fun _ => Minor.moves

/-- An access late in a step, when the step has already made the changes from `s` to `s'`. -/
theorem moves_access {α : Type} {s s' : State} {x : Access α} {f : α → State → Micro} (hs : Moves s s')
    (hx : x.Within (Minor s')) (hdone : ∀ v u, Moves s u → (f v u).After (Moves s)) :
    (x.andThen f).After (Moves s) :=
  .access hx (fun _ h => hs.minor h) fun v u h => hdone v u (hs.minor h)

/-! ## The channel's operations -/

theorem dmaEnableSteps_zero (c : ChanIx) (t : Word) (s : State) :
    dmaEnableSteps c 0 t s = retWith .dmaEnable .unit (switchChan c true s) := by
  cases h : (s.chan c).enabled
  · by_cases hn : s.dmaCount + 1 = 1 <;>
      simp only [dmaEnableSteps, switchChan, countAfter, gateAfter, h, hn, Bool.false_eq_true, if_true, if_false] <;> rfl
  · simp only [dmaEnableSteps, switchChan, countAfter, gateAfter, h, if_true]
    rfl

theorem dmaDisableSteps_zero (c : ChanIx) (t : Word) (s : State) :
    dmaDisableSteps c 0 t s = retWith .dmaDisable .unit (switchChan c false s) := by
  cases h : (s.chan c).enabled
  · simp only [dmaDisableSteps, switchChan, countAfter, gateAfter, h, Bool.false_eq_true, if_true, if_false]
    rw [show ({ s.chan c with enabled := false } : Chan) = s.chan c by rw [← h], setChan_self]
    rfl
  · by_cases hn : s.dmaCount - 1 = 0 <;>
      simp only [dmaDisableSteps, switchChan, countAfter, gateAfter, h, hn, Bool.false_eq_true, Bool.true_eq_false,
        if_true, if_false] <;> rfl

theorem dmaEnableSteps_moving (c : ChanIx) : (dmaEnableSteps c).Moving
  | 0, t, s => by
    rw [dmaEnableSteps_zero]
    exact (Change.switch c true).moves.minor (.emit _ _)
  | _ + 1, _, _ => trivial

theorem dmaDisableSteps_moving (c : ChanIx) : (dmaDisableSteps c).Moving
  | 0, t, s => by
    rw [dmaDisableSteps_zero]
    exact (Change.switch c false).moves.minor (.emit _ _)
  | _ + 1, _, _ => trivial

section
variable {go : Nat → State → Prop} {ret stop : State → Prop} {k : Nat} {s : State}

/-- All that a step of programming a channel can do (R186): a check or a gated block stops it; step 0 hands the buffer of the
host's over to the channel; steps 1 and 2 only write registers; step 3 fills the slot. -/
theorem programSteps_sat {c : ChanIx} {pid : Pid} {buf : Buf} {len : Word} {next : State → Micro} {t : Word}
    (hstop : ∀ u, Minor s u → stop u)
    (hhand : k = 0 → bufOwner s.bufs buf.id = .host → (s.chan c).slot = none →
      ∀ u, Minor (setOwner buf (.chan c) s) u → stop u ∧ go 1 u)
    (hgo : 1 ≤ k → k ≤ 2 → ∀ u, Minor s u → go (k + 1) u)
    (hfill : k = 3 → ∀ u, Minor s u → (next (u.setChan c { u.chan c with slot := some buf })).Sat go ret stop) :
    (programSteps c pid buf len next k t s).Sat go ret stop := by
  match k with
  | 0 =>
    rw [programSteps]
    split
    · exact hstop _ (.refuse _ s)
    · next howner =>
      split
      · exact hstop _ (.raise _ s)
      · next hslot =>
        split
        · exact hstop _ (.raise _ s)
        · have hand := hhand rfl (not_not.1 howner) hslot
          exact .access (regWrite_minor _ _ _) (fun u h => (hand u h).1) fun _ u h => (hand u h).2
  | 1 => exact .access (regWrite_minor _ _ s) hstop fun _ u h => hgo (by omega) (by omega) u h
  | 2 => exact .access (regWrite_minor _ _ s) hstop fun _ u h => hgo (by omega) (by omega) u h
  | 3 => exact .access (regWrite_minor _ _ s) hstop fun _ u h => hfill rfl u h
  | _ + 4 => trivial

/-- All that a step of an abort can do (R193): a gated block stops it, step 0 writes IDR, and step 1 takes the slot's buffer
and gives it back. -/
theorem abortSteps_sat {c : ChanIx} {next : Option Buf → State → Micro} {t : Word} (hstop : ∀ u, Minor s u → stop u)
    (hgo : ∀ u, Minor s u → go 1 u)
    (htake : ∀ u, Minor s u →
      (next (u.chan c).slot (giveBack (u.chan c).slot (u.setChan c { u.chan c with slot := none }))).Sat go ret stop) :
    (abortSteps c next k t s).Sat go ret stop := by
  match k with
  | 0 => exact .access (regWrite_minor _ _ s) hstop fun _ u h => hgo u h
  | 1 => exact .access (regWrite_minor _ _ s) hstop fun _ u h => htake u h
  | _ + 2 => trivial

end

/-- Programming a channel is a chain of changes when what follows the filled slot is. -/
theorem programSteps_moves {c : ChanIx} {next : State → Micro} {k : Nat} {s : State}
    (hnext : ∀ u, Moves s u → (next u).After (Moves s)) (pid : Pid) (buf : Buf) (len t : Word) :
    (programSteps c pid buf len next k t s).After (Moves s) :=
  programSteps_sat (fun _ h => h.moves)
    (fun _ _ _ _ h => ⟨(Change.owner buf _).moves.minor h, (Change.owner buf _).moves.minor h⟩)
    (fun _ _ _ h => h.moves) fun _ _ h => hnext _ (h.moves.change (.slot c _))

theorem doTransferSteps_moving (op : Op) (c : ChanIx) (pid : Pid) (buf : Buf) (len : Word) :
    (doTransferSteps op c pid buf len).Moving := fun k t s => by
  unfold doTransferSteps
  split
  · exact (startStep_minor op c s).mono (fun _ _ => Minor.moves) (fun _ => Minor.moves) fun _ => Minor.moves
  · exact programSteps_moves (fun _ h => by exact h) pid buf len t

theorem giveBack_moves (r : Option Buf) (s : State) : Moves s (giveBack r s) := by
  cases r with
  | none => exact .refl
  | some b => exact (Change.owner b .host).moves

theorem setOwners_moves (w : Buf) (r : Option Buf) (o : Owner) (s : State) : Moves s (setOwners w r o s) := by
  cases r with
  | none => exact (Change.owner w o).moves
  | some b => exact (Change.owner w o).moves.change (.owner b o)

theorem abortSteps_moving (c : ChanIx) {next : Option Buf → State → Micro}
    (hnext : ∀ r u, (next r u).After (Minor u)) : (abortSteps c next).Moving := fun _ _ s =>
  abortSteps_sat (fun _ h => h.moves) (fun _ h => h.moves) fun u h => by
    have htaken : Moves s _ := (h.moves.change (.slot c none)).trans (giveBack_moves (u.chan c).slot _)
    exact (hnext _ _).mono (fun _ _ => htaken.minor) (fun _ => htaken.minor) fun _ => htaken.minor

theorem dmaSetClientSteps_moving (c : ChanIx) (client : Option DmaClient) : (dmaSetClientSteps c client).Moving
  | 0, _, s =>
    match client with
    | some (.serEngine _) => (Minor.refuse _ s).moves
    | none => (Change.chanClient c (client := none) fun _ => nofun).moves.minor (.emit _ _)
    | some (.ext k) => (Change.chanClient c (client := some (.ext k)) fun _ => nofun).moves.minor (.emit _ _)
  | _ + 1, _, _ => trivial

/-! ## The engine's operations -/

theorem serInitSpiSteps_moving (e : SerIx) : (serInitSpiSteps e).Moving
  | 0, _, s => by
    rw [serInitSpiSteps]
    split
    · exact (Minor.raise _ s).moves
    · have hclock : Moves s (setClock (.ser e) true s) := (Change.clockOn s e).moves
      exact moves_access (hclock.change (.mode _ e (m := .spi) nofun)) (regWrite_minor _ _ _) fun _ _ h => h
  | 1, _, s => moves_access .refl (regWrite_minor _ _ s) fun _ _ h => h
  | 2, _, s => moves_access .refl (regWrite_minor _ _ s) fun _ _ h => h.minor (.emit _ _)
  | _ + 3, _, _ => trivial

theorem serConfigureUartSteps_moving (e : SerIx) (p : UartParams) : (serConfigureUartSteps e p).Moving
  | 0, _, s => by
    rw [serConfigureUartSteps]
    split
    · exact (Minor.raise _ s).moves
    · split
      · exact (Minor.raise _ s).moves
      · exact moves_access (Change.clockOn s e).moves (regWrite_minor _ _ _) fun _ _ h => h
  | 1, _, s =>
    moves_access .refl (regWrite_minor _ _ s) fun _ _ h => h.change (.mode _ e (m := .uart) nofun)
  | 2, _, s => moves_access .refl (regWrite_minor _ _ s) fun _ _ h => h.minor (.emit _ _)
  | _ + 3, _, _ => trivial

/-- The checks of SER_SEND_BYTES end in a refusal or a fault, or give the attached channel, its slot empty (R264). -/
theorem sendBytesCheck_cases (e : SerIx) (buf : Buf) (s : State) :
    (∃ u, sendBytesCheck e buf s = .inl u ∧ Minor s u) ∨
      ∃ c p, sendBytesCheck e buf s = .inr (c, p) ∧ (s.eng e).dma = some (c, p) := by
  unfold sendBytesCheck
  split
  · exact .inl ⟨_, rfl, .refuse _ s⟩
  · split
    · exact .inl ⟨_, rfl, .raise _ s⟩
    · split
      · exact .inl ⟨_, rfl, .raise _ s⟩
      · next c p hdma =>
        split
        · exact .inl ⟨_, rfl, .raise _ s⟩
        · exact .inr ⟨c, p, rfl, hdma⟩

/-- A step of SER_SEND_BYTES is a refusal or a fault, or the step of DMA_DO_TRANSFER on the attached channel (R264). -/
theorem serSendBytesSteps_cases (e : SerIx) (buf : Buf) (len : Word) (k : Nat) (t : Word) (s : State) :
    (∃ u, serSendBytesSteps e buf len k t s = .stop u ∧ Minor s u) ∨
      ∃ c p, (s.eng e).dma = some (c, p) ∧
        serSendBytesSteps e buf len k t s = doTransferSteps .serSendBytes c p buf len k t s := by
  cases k with
  | zero =>
    obtain ⟨u, hu, hminor⟩ | ⟨c, p, hcp, hdma⟩ := sendBytesCheck_cases e buf s
    · exact .inl ⟨u, by simp [serSendBytesSteps, hu], hminor⟩
    · exact .inr ⟨c, p, hdma, by simp [serSendBytesSteps, hcp]⟩
  | succ k =>
    cases hdma : (s.eng e).dma with
    | none => exact .inl ⟨_, by simp [serSendBytesSteps, hdma], .refuse .noBinding s⟩
    | some cp => exact .inr ⟨cp.1, cp.2, rfl, by simp [serSendBytesSteps, hdma]⟩

theorem serSendBytesSteps_moving (e : SerIx) (buf : Buf) (len : Word) : (serSendBytesSteps e buf len).Moving := by
  intro k t s
  obtain ⟨u, h, hminor⟩ | ⟨c, p, _, h⟩ := serSendBytesSteps_cases e buf len k t s <;> rw [h]
  · exact hminor.moves
  · exact doTransferSteps_moving _ c p buf len k t s

theorem serSetClientSteps_moving (e : SerIx) (client : SerClient) : (serSetClientSteps e client).Moving
  | 0, _, s => (Change.client s e client).moves.minor (.emit _ _)
  | _ + 1, _, _ => trivial

theorem serAttachDmaSteps_moving (e : SerIx) (p : Pid) (c : ChanIx) : (serAttachDmaSteps e p c).Moving
  | 0, _, s => by
    rw [serAttachDmaSteps]
    split
    · exact (Minor.refuse _ s).moves
    · next h =>
      simp only [not_or, Option.not_isSome_iff_eq_none] at h
      exact (Change.attach p h.1 h.2.1).moves.minor (.emit _ _)
  | _ + 1, _, _ => trivial

theorem serReadWriteBytesSteps_moving (e : SerIx) (w : Buf) (r : Option Buf) (len : Word) :
    (serReadWriteBytesSteps e w r len).Moving
  | 0, _, s => by
    rw [serReadWriteBytesSteps]
    split_ifs
    · exact (Minor.refuse _ s).moves
    · exact (Minor.raise _ s).moves
    · exact (Minor.raise _ s).moves
    · exact (Minor.raise _ s).moves
    · exact moves_access (setOwners_moves w r _ s) (regWrite_minor _ _ _) fun _ _ h => h
  | 1, _, s => moves_access .refl (regWrite_minor _ _ s) fun _ _ h => h
  | 2, _, s => moves_access .refl (regWrite_minor _ _ s) fun _ _ h => h
  | 3, _, s => moves_access .refl (byteRead_minor _ _ s) fun _ _ h => h
  | 4, _, s =>
    moves_access .refl (regWrite_minor _ _ s) fun _ _ h => (h.change (.ctx _ e _)).minor (.emit _ _)
  | _ + 5, _, _ => trivial

/-! ## The handlers -/

theorem uartReceive_minor (e : SerIx) (x : Byte) (s : State) : (uartReceive e x s).After (Minor s) := by
  unfold uartReceive
  split
  · exact .emit _ s
  · exact .refl s
  · exact .raise _ s

theorem deliverWriteDone_minor (e : SerIx) (r : Option Buf) (s : State) : (deliverWriteDone e r s).After (Minor s) := by
  unfold deliverWriteDone
  split
  · exact .refl s
  · split
    · exact .emit _ s
    · exact .raise _ s
    · exact .raise _ s

/-- The end of an exchange: both buffers go back to the host, and the rest is an event or a fault (R321). -/
theorem spiComplete_minor (e : SerIx) (x : SpiCtx) (s : State) :
    (spiComplete e x s).After (Minor (setOwners x.w x.r .host s)) := by
  unfold spiComplete
  dsimp only
  split
  · exact .emit _ _
  · exact .raise _ _
  · exact .raise _ _

section
variable {go : Nat → State → Prop} {ret stop : State → Prop} {e : SerIx} {s : State}

/-- What follows a received byte of an exchange (R320): the end of the exchange at the last index, else the cursor moves. -/
theorem spiAdvance_sat {x : SpiCtx} (hlast : go 3 s)
    (hmore : x.cursor ≠ x.len - 1 → go 5 (s.setEng e { s.eng e with ctx := some { x with cursor := x.cursor + 1 } })) :
    (spiAdvance e x s).Sat go ret stop := by
  unfold spiAdvance
  split
  · exact hlast
  · next h => exact hmore h

/-- All that a step of SER_HANDLE_IRQ can do (R265, R320, R321): it makes minor changes; it moves the cursor of the exchange
in progress, after a received byte is stored or not; or it ends the exchange. -/
theorem serHandleIrqSteps_sat {k : Nat} {t : Word} (hminor : ∀ u, Minor s u → (∀ k, go k u) ∧ ret u ∧ stop u)
    (hmore : ∀ x u, (u.eng e).ctx = some x → x.cursor ≠ x.len - 1 →
      (Minor s u ∨ ∃ a b, ownsAddr s.bufs (.ser e) a = true ∧ u = s.storeByte a b) →
      go 5 (u.setEng e { u.eng e with ctx := some { x with cursor := x.cursor + 1 } }))
    (hstore : ∀ a b, ownsAddr s.bufs (.ser e) a = true → go 3 (s.storeByte a b))
    (hend : ∀ x u, Minor s u → (u.eng e).ctx = some x →
      (spiComplete e x (u.setEng e { u.eng e with ctx := none })).Sat go ret stop) :
    (serHandleIrqSteps e k t s).Sat go ret stop := by
  have hgo k u (h : Minor s u) : go k u := (hminor u h).1 k
  have hret u (h : Minor s u) : ret u := (hminor u h).2.1
  have hstop u (h : Minor s u) : stop u := (hminor u h).2.2
  match k with
  | 0 =>
    refine .access (regRead_minor _ s) hstop fun v u h => ?_
    split
    · exact hgo 1 u h
    · exact hret u h
  | 1 =>
    refine .access (regRead_minor _ s) hstop fun v u h => ?_
    unfold afterRhr
    split
    · exact (uartReceive_minor e _ u).mono (fun k _ h' => hgo k _ (h.trans h')) (fun _ h' => hret _ (h.trans h'))
        fun _ h' => hstop _ (h.trans h')
    · exact hret u h
    · split
      · exact hret u h
      · next x hx =>
        split
        · exact hgo 2 u h
        · exact spiAdvance_sat (hgo 3 u h) fun hc => hmore x u hx hc (.inl h)
  | 2 =>
    rw [serHandleIrqSteps]
    split
    · exact hret s (.refl s)
    · next x hx =>
      split
      · exact spiAdvance_sat (hgo 3 s (.refl s)) fun hc => hmore x s hx hc (.inl (.refl s))
      · next rb _ =>
        have hcases := byteWrite_cases (.ser e) (rb.addr + BitVec.ofNat 32 x.cursor) (t.extractLsb' 0 8) s
        obtain ⟨ho, hw⟩ | ⟨_, hw⟩ := hcases <;> rw [hw]
        · exact spiAdvance_sat (hstore _ _ ho) fun hc => hmore x (s.storeByte _ _) hx hc (.inr ⟨_, _, ho, rfl⟩)
        · exact hstop _ (.raise _ s)
  | 3 => exact .access (regWrite_minor _ _ s) hstop fun _ u h => hgo 4 u h
  | 4 =>
    refine .access (regWrite_minor _ _ s) hstop fun _ u h => ?_
    split
    · exact hret u h
    · next x hx => exact hend x u h hx
  | 5 =>
    rw [serHandleIrqSteps]
    split
    · exact hret s (.refl s)
    · exact .access (byteRead_minor _ _ s) hstop fun _ u h => hgo 6 u h
  | 6 => exact .access (regWrite_minor _ _ s) hstop fun _ u h => hret u h
  | _ + 7 => trivial

end

theorem serHandleIrqSteps_moving (e : SerIx) : (serHandleIrqSteps e).Moving := fun k t s => by
  have hbyte a b (ha : ownsAddr s.bufs (.ser e) a = true) : Moves s (s.storeByte a b) :=
    (Change.byte (who := .ser e) b nofun ha).moves
  refine serHandleIrqSteps_sat (fun u h => ⟨fun _ => h.moves, h.moves, h.moves⟩) ?_ hbyte ?_
  · rintro x u - - (h | ⟨a, b, ha, rfl⟩)
    · exact h.moves.change (.ctx u e _)
    · exact (hbyte a b ha).change (.ctx _ e _)
  · intro x u h _
    have hend : Moves s _ := (h.moves.change (.ctx u e none)).trans (setOwners_moves x.w x.r .host _)
    exact (spiComplete_minor e x _).mono (fun _ _ => hend.minor) (fun _ => hend.minor) fun _ => hend.minor

theorem serDmaDoneSteps_moving (e : SerIx) : (serDmaDoneSteps e).Moving := fun k t s => by
  unfold serDmaDoneSteps
  split
  · exact abortSteps_moving _ (deliverWriteDone_minor e) k t s
  · exact (Minor.refuse _ s).moves

theorem dmaCallback_minor (c : ChanIx) (pid : Pid) (s : State) : (dmaCallback c pid s).After (Minor s) := by
  unfold dmaCallback
  split
  · exact .refl s
  · exact .emit _ s
  · exact .refl s

/-- All that a step of DMA_HANDLE_IRQ can do (R198): a minor step, or a step of SER_DMA_DONE. -/
theorem dmaHandleIrqSteps_cases (c : ChanIx) (k : Nat) (t : Word) (s : State) :
    (dmaHandleIrqSteps c k t s).After (Minor s) ∨
      ∃ e j, dmaHandleIrqSteps c k t s = (serDmaDoneSteps e j t s).shift 1 := by
  match k with
  | 0 =>
    refine .inl (.access (regRead_minor _ s) (fun _ h => h) fun v u h => ?_)
    split
    · exact h.trans (.raise _ u)
    · exact (dmaCallback_minor c _ u).mono (fun _ _ => h.trans) (fun _ => h.trans) fun _ => h.trans
  | k + 1 =>
    rw [dmaHandleIrqSteps]
    split
    · next e _ => exact .inr ⟨e, k, rfl⟩
    · exact .inl (.refl s)

theorem dmaHandleIrqSteps_moving (c : ChanIx) : (dmaHandleIrqSteps c).Moving := fun k t s => by
  obtain h | ⟨e, j, h⟩ := dmaHandleIrqSteps_cases c k t s
  · exact h.mono (fun _ _ => Minor.moves) (fun _ => Minor.moves) fun _ => Minor.moves
  · rw [h]
    exact .shift (serDmaDoneSteps_moving e j t s)

end Sys2Proof.Machine
end

section
/-! PROOF. Every instruction and every step as a chain of changes (00_scope R21, R31). `exec_next_cases` says what an
instruction can do to a machine that goes on, `step_moves` what a step can. -/

namespace Sys2Proof.Machine

/-- The steps of the CPU operation of an instruction; an agent's step has none. -/
def cpuBody : Instr → Body
  | .regRead a => regReadSteps a
  | .regWrite a v => regWriteSteps a v
  | .regFieldGet hi lo a => regFieldGetSteps hi lo a
  | .regFieldSet hi lo a v => fieldSetSteps .regFieldSet a hi lo v
  | .dmaEnable c => dmaEnableSteps c
  | .dmaDisable c => dmaDisableSteps c
  | .dmaProgram c pid buf len => programSteps c pid buf len (retWith .dmaProgram .unit)
  | .dmaStart c => dmaStartSteps c
  | .dmaDoTransfer c pid buf len => doTransferSteps .dmaDoTransfer c pid buf len
  | .dmaAbort c => abortSteps c fun r s => retWith .dmaAbort (.buf r) s
  | .dmaHandleIrq c => dmaHandleIrqSteps c
  | .dmaXferCount c => dmaXferCountSteps c
  | .dmaSetClient c client => dmaSetClientSteps c client
  | .serConfigureUart e p => serConfigureUartSteps e p
  | .serSendByte e b => serSendByteSteps e b
  | .serSendBytes e buf len => serSendBytesSteps e buf len
  | .serInitSpi e => serInitSpiSteps e
  | .serReadWriteBytes e w r len => serReadWriteBytesSteps e w r len
  | .serHandleIrq e => serHandleIrqSteps e
  | .serDmaDone e _ => serDmaDoneSteps e
  | .serSetClient e client => serSetClientSteps e client
  | .serAttachDma e p c => serAttachDmaSteps e p c
  | .serEnableTx e => crCommandSteps .serEnableTx e crTxen
  | .serDisableTx e => crCommandSteps .serDisableTx e crTxdis
  | .serEnableRx e => crCommandSteps .serEnableRx e crRxen
  | .serDisableRx e => crCommandSteps .serDisableRx e crRxdis
  | .spiSetClock e v => fieldSetSteps .spiSetClock (serAddr e .mr) 16 16 (bitWord v)
  | .spiGetClock e => mrBitSteps .spiGetClock e 16
  | .spiSetPhase e v => fieldSetSteps .spiSetPhase (serAddr e .mr) 8 8 (bitWord v)
  | .spiGetPhase e => mrBitSteps .spiGetPhase e 8
  | .spiSetRate _ _ => fixedSteps .spiSetRate (.word Config.spiRateValue)
  | .spiGetRate _ => fixedSteps .spiGetRate (.word Config.spiRateValue)
  | .spiSetChipSelect _ _ => fixedSteps .spiSetChipSelect .unit
  | .spiGetChipSelect _ => fixedSteps .spiGetChipSelect (.word (Config.spiCsValue.zeroExtend 32))
  | .irqDispatch _ | .evDmaStep _ _ | .evSerLoad _ | .evSerShift _ _ | .evSerRxArrive _ _ | .evHardFault =>
    fun _ _ _ => .hold

/-- Whether the steps of an operation change no state of the software: all but the fourteen operations named here. -/
def Instr.accessOnly : Instr → Bool
  | .dmaEnable _ | .dmaDisable _ | .dmaProgram _ _ _ _ | .dmaDoTransfer _ _ _ _ | .dmaAbort _ | .dmaHandleIrq _
  | .dmaSetClient _ _ | .serConfigureUart _ _ | .serSendBytes _ _ _ | .serInitSpi _ | .serReadWriteBytes _ _ _ _
  | .serHandleIrq _ | .serDmaDone _ _ | .serSetClient _ _ | .serAttachDma _ _ _ => false
  | _ => true

theorem cpuBody_minor {i : Instr} (h : Instr.accessOnly i = true) : (cpuBody i).IsMinor := by
  cases i with
  | regRead a => exact regReadSteps_minor a
  | regWrite a v => exact regWriteSteps_minor a v
  | regFieldGet hi lo a => exact regFieldGetSteps_minor hi lo a
  | regFieldSet hi lo a v => exact fieldSetSteps_minor _ a hi lo v
  | dmaStart c => exact dmaStartSteps_minor c
  | dmaXferCount c => exact dmaXferCountSteps_minor c
  | serSendByte e b => exact serSendByteSteps_minor e b
  | serEnableTx e | serDisableTx e | serEnableRx e | serDisableRx e => exact crCommandSteps_minor _ e _
  | spiSetClock e v | spiSetPhase e v => exact fieldSetSteps_minor _ _ _ _ _
  | spiGetClock e | spiGetPhase e => exact mrBitSteps_minor _ e _
  | spiSetRate | spiGetRate | spiSetChipSelect | spiGetChipSelect => exact fixedSteps_minor _ _
  | irqDispatch | evDmaStep | evSerLoad | evSerShift | evSerRxArrive | evHardFault => exact fun _ _ _ => trivial
  | _ => exact absurd h nofun

theorem cpuBody_moving (i : Instr) : (cpuBody i).Moving := by
  cases i with
  | dmaEnable c => exact dmaEnableSteps_moving c
  | dmaDisable c => exact dmaDisableSteps_moving c
  | dmaProgram c pid buf len =>
    exact fun _ t _ => programSteps_moves (fun _ h => by exact h.minor (.emit _ _)) pid buf len t
  | dmaDoTransfer c pid buf len => exact doTransferSteps_moving _ c pid buf len
  | dmaAbort c => exact abortSteps_moving c (next := fun r => retWith .dmaAbort (.buf r)) fun _ u => Minor.emit _ u
  | dmaHandleIrq c => exact dmaHandleIrqSteps_moving c
  | dmaSetClient c client => exact dmaSetClientSteps_moving c client
  | serConfigureUart e p => exact serConfigureUartSteps_moving e p
  | serSendBytes e buf len => exact serSendBytesSteps_moving e buf len
  | serInitSpi e => exact serInitSpiSteps_moving e
  | serReadWriteBytes e w r len => exact serReadWriteBytesSteps_moving e w r len
  | serHandleIrq e => exact serHandleIrqSteps_moving e
  | serDmaDone e _ => exact serDmaDoneSteps_moving e
  | serSetClient e client => exact serSetClientSteps_moving e client
  | serAttachDma e p c => exact serAttachDmaSteps_moving e p c
  | _ => exact (cpuBody_minor rfl).moving

/-- The byte of a DMA step goes to a register or out of the block, or to memory where the channel owns a buffer (R96, R201). -/
theorem dmaMove_cases (c : ChanIx) (p : Pid) (x0 : Byte) (s : State) :
    Minor s (dmaMove c p x0 s) ∨
      ∃ a x, ownsAddr s.bufs (.chan c) a = true ∧ Minor (s.storeByte a x) (dmaMove c p x0 s) := by
  unfold dmaMove
  dsimp only
  split
  · next howns =>
    have hregs (u v : State) (h : Minor u v) :
        Minor u (v.setChan c { v.chan c with mar := (s.chan c).mar + 1, tcr := (v.chan c).tcr - 1 }) :=
      h.trans (.setChan rfl)
    unfold dmaMoveByte
    split
    · refine .inl (hregs _ _ (.setEng rfl))
    · exact .inl (hregs _ _ (.emit _ s))
    · next e _ _ =>
      exact .inr ⟨_, (s.eng e).rhr, howns, hregs _ _ (.setEng (s := s.storeByte _ _) rfl)⟩
    · exact .inr ⟨_, x0, howns, hregs _ _ (.refl _)⟩
  · exact .inl (.raise _ s)

/-- A step of the shifter makes minor changes when its effect does. -/
theorem shifterStep_minor {e : SerIx} {ready : Bool} {f : State → State} {s : State} (hf : Minor s (f s)) :
    Minor s (shifterStep e ready f s) := by
  unfold shifterStep
  split_ifs
  · exact hf
  · exact .refuse _ s
  · exact .refl s

theorem serArrive_minor (e : SerIx) (x : Byte) (s : State) : Minor s (serArrive e x s) := .setEng rfl

theorem serShift_minor (e : SerIx) (m : Byte) (s : State) : Minor s (serShift e m s) := by
  unfold serShift
  split
  · exact .refl s
  · next x _ =>
    have hleaves : Minor s ((emit (.txLine e x) s).setEng e { s.eng e with shift := none }) :=
      (Minor.emit _ s).trans (.setEng rfl)
    dsimp only
    split
    · exact hleaves.trans (serArrive_minor e m _)
    · exact hleaves

/-- All that an instruction can do to a machine that goes on: minor changes; a trap entry; a byte written to a buffer of the
stepping channel's, with minor changes; or the CPU agent's turn at its operation. -/
theorem exec_next_cases {i : Instr} {s s' : State} (h : exec i s = .next s') :
    Minor s s' ∨ (∃ l, s' = trapEntry l s) ∨
      (∃ c a x, ownsAddr s.bufs (.chan c) a = true ∧ Minor (s.storeByte a x) s') ∨ s' = runCpu i (cpuBody i) s := by
  have hhost {op : Instr} {b : Body} (h : runHost op b s = .next s') : Minor s s' ∨ s' = runCpu op b s := by
    obtain ⟨_, ⟨_, rfl⟩ | ⟨_, h⟩⟩ := runHost_next h
    · exact .inl (.refuse _ s)
    · exact .inr h
  have hhandler {op : Instr} {b : Body} (h : runHandler op b s = .next s') : Minor s s' ∨ s' = runCpu op b s := by
    obtain ⟨_, _, ⟨_, rfl⟩ | ⟨_, h⟩⟩ := runHandler_next h
    · exact .inl (.refl s')
    · exact .inr h
  have hagent {f : State → State} (h : runAgent f s = .next s') : s' = f s := (runAgent_next h).2.2
  cases i with
  | dmaHandleIrq | serHandleIrq | serDmaDone => exact (hhandler h).imp_right fun h => .inr (.inr h)
  | irqDispatch l =>
    obtain rfl := hagent h
    split
    · exact .inr (.inl ⟨l, rfl⟩)
    · exact .inl (.refl s)
  | evDmaStep c x0 =>
    simp only [exec, execEvDmaStep] at h
    obtain rfl := hagent h
    split
    · exact .inl (.refl s)
    · next p _ =>
      split
      · exact .inl (.refuse _ s)
      · exact (dmaMove_cases c p x0 s).imp_right fun ⟨a, x, ha, hx⟩ => .inr (.inl ⟨c, a, x, ha, hx⟩)
  | evSerLoad e =>
    obtain rfl := hagent h
    exact .inl (shifterStep_minor (.setEng rfl))
  | evSerShift e m =>
    obtain rfl := hagent h
    exact .inl (shifterStep_minor (serShift_minor e m s))
  | evSerRxArrive e x =>
    obtain rfl := hagent h
    exact .inl (shifterStep_minor (serArrive_minor e x s))
  | evHardFault =>
    simp only [exec, execEvHardFault] at h
    obtain rfl := hagent h
    exact .inl ((Minor.advance s 1).trans (.raise _ _))
  | _ => exact (hhost h).imp_right fun h => .inr (.inr h)

/-- The CPU agent's turn is a chain of changes when every step of the operation is. -/
theorem runCpu_moves {op : Instr} {b : Body} (hb : b.Moving) (s : State) : Moves s (runCpu op b s) := by
  have step k t u (h : Moves s u) : (b k t u).After (Moves s) :=
    (hb k t u).mono (fun _ _ => h.trans) (fun _ => h.trans) fun _ => h.trans
  have run (n k : Nat) (t : Word) : Moves s (runSteps op b n k t s) :=
    runSteps_induct (J := fun _ _ => Moves s) (fun _ _ _ h => h.change (.place _))
      (fun k t u k' t' u' h e => by
        have := step k t u h
        rw [e] at this
        exact Moves.change this (.place _))
      (fun k t u u' h e => by
        have := step k t u h
        rw [e] at this
        exact Moves.minor this (.finish u'))
      (fun k t u u' h e => by
        have := step k t u h
        rwa [e] at this)
      n k t s .refl
  obtain ⟨_, h⟩ | ⟨k, t, _, h⟩ | ⟨_, _, _, h⟩ := runCpu_cases op b s <;> rw [h]
  · exact run _ _ _
  · exact run _ _ _

/-- Whatever an instruction does is a chain of changes. -/
theorem exec_moves {i : Instr} {s s' : State} (h : exec i s = .next s') : Moves s s' := by
  obtain h | ⟨l, rfl⟩ | ⟨c, a, x, ha, h⟩ | rfl := exec_next_cases h
  · exact h.moves
  · exact (Change.place _).moves
  · exact (Change.byte (who := .chan c) x nofun ha).moves.minor h
  · exact runCpu_moves (cpuBody_moving i) s

/-- Every step of the machine is a chain of changes. -/
theorem step_moves {s s' : State} (h : step s = .next s') : Moves s s' :=
  step_keeps (I := Moves s) (fun _ h => h.change .boot) (fun u rest h => h.minor (.popTurn u rest))
    (fun u b h => h.minor (.withBurst u b)) (fun u q h => h.minor (.withExtReq u q))
    (fun u n h => h.minor (.advance u n)) (fun u r h => h.minor (.refuse r u))
    (fun _ _ _ h hexec => h.trans (exec_moves hexec)) .refl h

end Sys2Proof.Machine
end

section
/-! PROOF. The invariants that speak of no operation in progress: the canonical form of memory and of the buffer table (R61,
R62), the counter, the gate and the channel masks (R65, R181), and the event history (R63). Each is kept by every `Change`. -/

namespace Sys2Proof.Machine

theorem Change.dataInv {s t : State} (h : Change s t) (hs : DataInv s) : DataInv t := by
  obtain ⟨hmem, hbufs⟩ := hs
  cases h with
  | minor h => exact ⟨h.mem ▸ hmem, h.bufs ▸ hbufs⟩
  | byte x _ _ => exact ⟨memWrite_wf _ _ x hmem (BitVec.isLt _), hbufs⟩
  | owner b o => exact ⟨hmem, bufSet_wf _ b o hbufs⟩
  | place | slot | chanClient | attach | engine | switch | boot => exact ⟨hmem, hbufs⟩

/-- Settles O52: every change keeps the canonical form, and a step is a chain of changes. -/
theorem canonicalDataKept : Obligations.CanonicalDataKept :=
  fun _ _ hs h => (step_moves h).keeps (fun _ _ h => h.dataInv) hs

/-- What the clock invariant looks at (R65, R49). -/
theorem ClockInv.of_eq {s t : State} (hs : ClockInv s) (hcount : t.dmaCount = s.dmaCount) (hgate : t.dmaGate = s.dmaGate)
    (hmasked : t.dmaMasked = s.dmaMasked) (henabled : ∀ c, (t.chan c).enabled = (s.chan c).enabled) : ClockInv t := by
  simpa [ClockInv, enabledCount, hcount, hgate, hmasked, henabled] using hs

theorem switchChan_chan (c c' : ChanIx) (on : Bool) (s : State) :
    (switchChan c on s).chan c' = if c' = c then { s.chan c with enabled := on } else s.chan c' :=
  setChan_chan s c c' _

theorem switchChan_enabled (c c' : ChanIx) (on : Bool) (s : State) :
    ((switchChan c on s).chan c').enabled = if c' = c then on else (s.chan c').enabled := by
  rw [switchChan_chan]
  split <;> rfl

theorem switchChan_masked (c c' : ChanIx) (on : Bool) (s : State) :
    (switchChan c on s).dmaMasked.get c' = if c' = c then !on else s.dmaMasked.get c' := by
  by_cases h : c' = c
  · simp [switchChan, h, Vector.get_eq_getElem]
  · simp [switchChan, h, Vector.get_eq_getElem, Fin.val_inj, Ne.symm h]

/-- The number of enabled channels, one of them counted apart. -/
theorem enabledCount_eq (c : ChanIx) (s : State) :
    enabledCount s =
      ((List.finRange Config.nCh).erase c).countP (fun d => (s.chan d).enabled) + if (s.chan c).enabled then 1 else 0 := by
  rw [enabledCount, (List.perm_cons_erase (List.mem_finRange c)).countP_eq, List.countP_cons]

/-- Switching a channel moves the number of enabled channels by that channel alone. -/
theorem enabledCount_switchChan (c : ChanIx) (on : Bool) (s : State) :
    enabledCount (switchChan c on s) + (if (s.chan c).enabled then 1 else 0) = enabledCount s + if on then 1 else 0 := by
  have hothers : ((List.finRange Config.nCh).erase c).countP (fun d => ((switchChan c on s).chan d).enabled) =
      ((List.finRange Config.nCh).erase c).countP (fun d => (s.chan d).enabled) := by
    refine List.countP_congr fun d hd => ?_
    have hdc : d ≠ c := fun h => (List.nodup_finRange _).not_mem_erase (h ▸ hd)
    rw [switchChan_enabled, if_neg hdc]
  rw [enabledCount_eq c, enabledCount_eq c s, hothers, switchChan_enabled, if_pos rfl]
  omega

theorem ClockInv.switchChan {s : State} (hs : ClockInv s) (c : ChanIx) (on : Bool) : ClockInv (switchChan c on s) := by
  obtain ⟨hcount, hgate, hmasked⟩ := hs
  have hmoved := enabledCount_switchChan c on s
  have hcounted := enabledCount_eq c s
  refine ⟨?_, ?_, fun c' => ?_⟩
  · show countAfter c on s = _
    unfold countAfter
    cases h : (s.chan c).enabled <;> cases on <;> simp [h] at hmoved ⊢ <;> omega
  · show gateAfter c on s = decide (0 < countAfter c on s)
    unfold gateAfter countAfter
    rw [hgate, Bool.eq_iff_iff]
    cases h : (s.chan c).enabled <;> cases on <;> simp [h] at hcounted ⊢ <;> omega
  · rw [switchChan_masked, switchChan_enabled]
    split
    · rfl
    · exact hmasked c'

theorem Change.clockInv {s t : State} (h : Change s t) (hs : ClockInv s) : ClockInv t := by
  cases h with
  | minor h => exact hs.of_eq h.dmaCount h.dmaGate h.dmaMasked h.enabled
  | slot c b | chanClient c =>
    refine hs.of_eq rfl rfl rfl fun c' => ?_
    rw [setChan_chan]
    split <;> simp_all
  | attach =>
    refine hs.of_eq rfl rfl rfl fun c' => ?_
    rw [setChan_chan]
    split <;> simp_all
  | switch c on => exact hs.switchChan c on
  | place | byte | owner | engine | boot => exact hs

/-- Settles O53: every change keeps the invariant, and no more than 16 channels are enabled. -/
theorem clockInvariantKept : Obligations.ClockInvariantKept := by
  intro s s' hs h
  have hs' : ClockInv s' := (step_moves h).keeps (fun _ _ h => h.clockInv) hs
  refine ⟨hs', ?_⟩
  calc s'.dmaCount = enabledCount s' := hs'.1
    _ ≤ (List.finRange Config.nCh).length := List.countP_le_length
    _ = 16 := List.length_finRange

theorem Change.events {s t : State} (h : Change s t) : ∃ evs, t.events = s.events ++ evs := by
  cases h with
  | minor h => exact h.events
  | place | byte | owner | slot | chanClient | attach | engine | switch | boot => exact ⟨[], (List.append_nil _).symm⟩

/-- Settles O56. The events are those of the changes; a faulted machine only refuses and a refused one makes no step, so that
past the boot step the two marks stay because nothing else runs. -/
theorem historyOnlyGrows : Obligations.HistoryOnlyGrows := by
  intro s s' h
  have hmarks : (∀ f, s.fault = some f → s'.fault = some f) ∧ (s.refused = true → s'.refused = true) := by
    obtain ⟨_, rfl⟩ | ⟨_, hrefused, ⟨_, _, _, _, _, rfl⟩ | ⟨hfault, _⟩⟩ := step_next h
    · exact ⟨fun _ => id, id⟩
    · exact ⟨fun _ => id, fun _ => rfl⟩
    · simp [hrefused, hfault]
  refine ⟨?_, hmarks⟩
  refine (step_moves h).keeps (I := fun u => ∃ evs, u.events = s.events ++ evs) (fun u v huv hu => ?_)
    ⟨[], (List.append_nil _).symm⟩
  obtain ⟨evs, hu⟩ := hu
  obtain ⟨evs', hv⟩ := huv.events
  exact ⟨evs ++ evs', by rw [hv, hu, List.append_assoc]⟩

end Sys2Proof.Machine
end

section
/-! PROOF. Ownership (10_state R65, R66). `OwnInv` is the part of the ownership invariant that speaks of no operation in
progress; `midAt op k` is what `MidInv` asks while `op` stands at its step `k`. A step of the operation is good (`Leaves`)
when it takes the first, and the second at its own step, to the first, and the second at the step it goes on with. -/

namespace Sys2Proof.Machine

/-- The ownership of buffers in slots and exchanges, the buffer table being canonical. -/
structure OwnInv (s : State) : Prop where
  wf : Buffers.wf s.bufs = true
  slots : SlotInv s
  exchanges : ExchangeInv s
  modes : ModeInv s

/-- What `MidInv` asks while the operation stands at step `k`. -/
def midAt (op : Instr) (k : Nat) (s : State) : Prop := MidInv (setCur (some ⟨op, k, 0⟩) s)

theorem midInv_of_idle {s : State} (h : s.cur = none) : MidInv s := by simp [MidInv, h]

theorem midInv_iff {s : State} {op : Instr} {k : Nat} {t : Word} (h : s.cur = some ⟨op, k, t⟩) :
    MidInv s ↔ midAt op k s := by
  simp only [MidInv, midAt, h, setCur_cur]
  exact Iff.rfl

/-- The operation has nothing to hold on to between its steps. -/
def Settled (op : Instr) : Prop := ∀ k s, midAt op k s

theorem settled_of_accessOnly {op : Instr} (h : Instr.accessOnly op = true) : Settled op := fun k s => by
  cases op with
  | dmaProgram | dmaDoTransfer | serSendBytes | serReadWriteBytes | serConfigureUart =>
    exact absurd h Bool.false_ne_true
  | _ => trivial

/-- At its first step no operation holds on to anything. -/
theorem midAt_zero (op : Instr) (s : State) : midAt op 0 s := by
  cases op <;> simp [midAt, MidInv]

/-- Minor changes keep what an operation holds on to: it is all state of the software. -/
theorem Minor.midAt {s t : State} (h : Minor s t) {op : Instr} {k : Nat} (hs : midAt op k s) : midAt op k t := by
  cases op with
  | dmaProgram | dmaDoTransfer | serSendBytes | serReadWriteBytes | serConfigureUart =>
    simpa [Machine.midAt, MidInv, h.bufs, h.slot, h.mode, h.ctx, h.dma] using hs
  | _ => trivial

theorem Minor.midInv {s t : State} (h : Minor s t) (hs : MidInv s) : MidInv t := by
  obtain hcur | hcur := h.cur
  · exact midInv_of_idle hcur
  · cases hc : s.cur with
    | none => exact midInv_of_idle (hcur.trans hc)
    | some c => exact (midInv_iff (hcur.trans hc)).2 (h.midAt ((midInv_iff hc).1 hs))

theorem Minor.ownInv {s t : State} (h : Minor s t) (hs : OwnInv s) : OwnInv t := by
  obtain ⟨wf, slots, exchanges, modes⟩ := hs
  constructor
  · rwa [h.bufs]
  · simpa only [SlotInv, h.slot, h.bufs] using slots
  · simpa only [ExchangeInv, h.ctx, h.bufs] using exchanges
  · simpa only [ModeInv, h.ctx, h.mode] using modes

/-! ## Changes of ownership -/

/-- The exchange is engine `e`'s, with its cursor inside (R66). -/
def ExchangeOk (t : BufTable) (e : SerIx) (x : SpiCtx) : Prop :=
  bufOwner t x.w.id = .ser e ∧ x.cursor < x.len ∧ x.len ≤ x.w.cap ∧
    ∀ rb, x.r = some rb → bufOwner t rb.id = .ser e ∧ x.len ≤ rb.cap

/-- The buffer is in no slot and in no exchange. -/
structure Free (n : Nat) (s : State) : Prop where
  slot : ∀ c b, (s.chan c).slot = some b → b.id ≠ n
  exchange : ∀ e x, (s.eng e).ctx = some x → x.w.id ≠ n ∧ ∀ rb, x.r = some rb → rb.id ≠ n

/-- A buffer is free when its owner is no owner of a slot or an exchange that holds it. -/
theorem OwnInv.free {s : State} (hs : OwnInv s) {n : Nat}
    (hslot : ∀ c b, (s.chan c).slot = some b → bufOwner s.bufs n ≠ .chan c)
    (hctx : ∀ e x, (s.eng e).ctx = some x → bufOwner s.bufs n ≠ .ser e) : Free n s where
  slot c b hb hn := hslot c b hb (hn ▸ hs.slots c b hb)
  exchange e x hx := by
    obtain ⟨hw, _, _, hr⟩ := hs.exchanges e x hx
    exact ⟨fun hn => hctx e x hx (hn ▸ hw), fun rb hrb hn => hctx e x hx (hn ▸ (hr rb hrb).1)⟩

theorem OwnInv.free_of_host {s : State} (hs : OwnInv s) {n : Nat} (h : bufOwner s.bufs n = .host) : Free n s :=
  hs.free (by simp [h]) (by simp [h])

theorem OwnInv.setOwner {s : State} (hs : OwnInv s) {b : Buf} (hb : Free b.id s) (o : Owner) : OwnInv (setOwner b o s) := by
  obtain ⟨wf, slots, exchanges, modes⟩ := hs
  refine ⟨bufSet_wf _ b o wf, fun c a ha => ?_, fun e x hx => ?_, modes⟩
  · rw [setOwner_bufs, bufOwner_bufSet_other _ _ _ (hb.slot c a ha)]
    exact slots c a ha
  · obtain ⟨hw, hcursor, hcap, hr⟩ := exchanges e x hx
    obtain ⟨hwb, hrb⟩ := hb.exchange e x hx
    rw [setOwner_bufs, bufOwner_bufSet_other _ _ _ hwb]
    refine ⟨hw, hcursor, hcap, fun rb h => ?_⟩
    rw [bufOwner_bufSet_other _ _ _ (hrb rb h)]
    exact hr rb h

theorem OwnInv.setOwners {s : State} (hs : OwnInv s) {w : Buf} {r : Option Buf} (hw : Free w.id s)
    (hr : ∀ rb, r = some rb → Free rb.id s) (o : Owner) : OwnInv (setOwners w r o s) := by
  cases r with
  | none => exact hs.setOwner hw o
  | some rb =>
    have hfree : Free rb.id (Machine.setOwner w o s) := ⟨(hr rb rfl).slot, (hr rb rfl).exchange⟩
    exact (hs.setOwner hw o).setOwner hfree o

theorem OwnInv.setChan {s : State} (hs : OwnInv s) {c : ChanIx} {x : Chan}
    (hx : ∀ b, x.slot = some b → bufOwner s.bufs b.id = .chan c) : OwnInv (s.setChan c x) := by
  obtain ⟨wf, slots, exchanges, modes⟩ := hs
  refine ⟨wf, fun c' b hb => ?_, exchanges, modes⟩
  rw [setChan_chan] at hb
  split at hb
  · next hc => exact hc ▸ hx b hb
  · exact slots c' b hb

theorem OwnInv.setEng {s : State} (hs : OwnInv s) {e : SerIx} {y : Ser}
    (hy : ∀ x, y.ctx = some x → ExchangeOk s.bufs e x ∧ y.mode = .spi) : OwnInv (s.setEng e y) := by
  obtain ⟨wf, slots, exchanges, modes⟩ := hs
  refine ⟨wf, slots, fun e' x hx => ?_, fun e' x hx => ?_⟩ <;>
    by_cases he : e' = e
  · subst he
    rw [setEng_eng_same] at hx
    exact (hy x hx).1
  · rw [setEng_eng_other s y he] at hx
    exact exchanges e' x hx
  · subst he
    rw [setEng_eng_same] at hx ⊢
    exact (hy x hx).2
  · rw [setEng_eng_other s y he] at hx ⊢
    exact modes e' x hx

/-- The software state of an engine that is not its exchange or its mode does not matter. -/
theorem OwnInv.setEng_same {s : State} (hs : OwnInv s) {e : SerIx} {y : Ser} (hctx : y.ctx = (s.eng e).ctx)
    (hmode : y.mode = (s.eng e).mode) : OwnInv (s.setEng e y) :=
  hs.setEng fun x hx => ⟨hs.exchanges e x (hctx ▸ hx), hmode ▸ hs.modes e x (hctx ▸ hx)⟩

/-- The taken buffer of an abort is in no other slot and in no exchange, so that it can be given back (R193). -/
theorem OwnInv.takeSlot {s : State} (hs : OwnInv s) (c : ChanIx) :
    OwnInv (giveBack (s.chan c).slot (s.setChan c { s.chan c with slot := none })) := by
  have hempty : OwnInv (s.setChan c { s.chan c with slot := none }) := hs.setChan nofun
  cases hslot : (s.chan c).slot with
  | none => exact hempty
  | some b =>
    have howner : bufOwner s.bufs b.id = .chan c := hs.slots c b hslot
    refine hempty.setOwner (hempty.free (fun d a ha hd => ?_) fun e x _ => by simp [howner]) .host
    obtain rfl : c = d := by simpa [howner] using hd
    simp at ha

/-- The buffers of an exchange that ends are in no slot and in no other exchange, so that they can be given back (R321). -/
theorem OwnInv.endExchange {s : State} (hs : OwnInv s) {e : SerIx} {x : SpiCtx} (hx : (s.eng e).ctx = some x) :
    OwnInv (Machine.setOwners x.w x.r .host (s.setEng e { s.eng e with ctx := none })) := by
  have hgone : OwnInv (s.setEng e { s.eng e with ctx := none }) := hs.setEng nofun
  obtain ⟨hw, _, _, hr⟩ := hs.exchanges e x hx
  have hfree n (hn : bufOwner s.bufs n = .ser e) : Free n (s.setEng e { s.eng e with ctx := none }) := by
    refine hgone.free (fun c b _ => by simp [hn]) fun d y hy hd => ?_
    obtain rfl : e = d := by simpa [hn] using hd
    simp at hy
  exact hgone.setOwners (hfree _ hw) (fun rb hrb => hfree _ (hr rb hrb).1) .host

/-! ## Steps -/

theorem giveBack_cur (r : Option Buf) (s : State) : (giveBack r s).cur = s.cur := by rw [giveBack_eq]

theorem setOwners_cur (w : Buf) (r : Option Buf) (o : Owner) (s : State) : (setOwners w r o s).cur = s.cur := by
  rw [setOwners_eq]

/-- A good step: see the head of this section. -/
abbrev Micro.Leaves (op : Instr) (k : Nat) (s : State) : Micro → Prop :=
  Micro.Sat (fun k' u => OwnInv u ∧ midAt op k' u) OwnInv fun u => OwnInv u ∧ midAt op k u ∧ CurKept s u

/-- Every step of the operation's body is good. -/
def KeepsOwnership (op : Instr) (b : Body) : Prop := ∀ k t s, OwnInv s → midAt op k s → (b k t s).Leaves op k s

/-- The turn of the CPU agent at an operation whose steps are good. -/
theorem runCpu_ownership {op : Instr} {b : Body} (hb : KeepsOwnership op b) {s : State} (hs : OwnInv s) (hm : MidInv s) :
    OwnInv (runCpu op b s) ∧ MidInv (runCpu op b s) := by
  have run n k t (hcur : s.cur = none ∨ s.cur = some ⟨op, k, t⟩) (hk : midAt op k s) :
      OwnInv (runSteps op b n k t s) ∧ MidInv (runSteps op b n k t s) := by
    refine runSteps_induct (I := fun u => OwnInv u ∧ MidInv u)
      (J := fun k t u => OwnInv u ∧ midAt op k u ∧ (u.cur = none ∨ u.cur = some ⟨op, k, t⟩)) ?_ ?_ ?_ ?_ n k t s
      ⟨hs, hk, hcur⟩
    · rintro k t u ⟨hu, hk, _⟩
      exact ⟨⟨hu.wf, hu.slots, hu.exchanges, hu.modes⟩, (midInv_iff (t := t) rfl).2 hk⟩
    · rintro k t u k' t' u' ⟨hu, hk, _⟩ hstep
      obtain ⟨hu', hk'⟩ : OwnInv u' ∧ midAt op k' u' := by
        have := hb k t u hu hk
        rwa [hstep] at this
      exact ⟨⟨hu'.wf, hu'.slots, hu'.exchanges, hu'.modes⟩, hk', .inr rfl⟩
    · rintro k t u u' ⟨hu, hk, _⟩ hstep
      have hu' : OwnInv u' := by
        have := hb k t u hu hk
        rwa [hstep] at this
      exact ⟨(Minor.finish u').ownInv hu', midInv_of_idle rfl⟩
    · rintro k t u u' ⟨hu, hk, hcur⟩ hstep
      obtain ⟨hu', hk', hcur'⟩ : OwnInv u' ∧ midAt op k u' ∧ CurKept u u' := by
        have := hb k t u hu hk
        rwa [hstep] at this
      refine ⟨hu', ?_⟩
      obtain hnone | hsame := hcur'
      · exact midInv_of_idle hnone
      · obtain hnone | hsome := hcur
        · exact midInv_of_idle (hsame.trans hnone)
        · exact (midInv_iff (hsame.trans hsome)).2 hk'
  obtain ⟨hc, h⟩ | ⟨k, t, hc, h⟩ | ⟨_, _, _, h⟩ := runCpu_cases op b s <;> rw [h]
  · exact run _ 0 0 (.inl hc) (midAt_zero op s)
  · exact run _ k t (.inr hc) ((midInv_iff hc).1 hm)
  · exact ⟨hs, hm⟩

/-- A step of minor changes that stops is good. -/
theorem Minor.leaves_stop {s u : State} (h : Minor s u) {op : Instr} {k : Nat} (hs : OwnInv s) (hm : Machine.midAt op k s) :
    OwnInv u ∧ Machine.midAt op k u ∧ CurKept s u := ⟨h.ownInv hs, h.midAt hm, h.cur⟩

/-- For an operation with nothing to hold on to, ownership and the CPU agent's place are all. -/
theorem leaves_of_settled {op : Instr} (h : Settled op) {k : Nat} {s : State} {m : Micro}
    (hm : m.Sat (fun _ => OwnInv) OwnInv fun u => OwnInv u ∧ CurKept s u) : m.Leaves op k s :=
  hm.mono (fun k u hu => ⟨hu, h k u⟩) (fun _ => id) fun u hu => ⟨hu.1, h k u, hu.2⟩

/-- Minor steps of an operation with nothing to hold on to are good. -/
theorem Body.IsMinor.keepsOwnership {op : Instr} {b : Body} (hb : b.IsMinor) (h : Settled op) : KeepsOwnership op b :=
  fun k t s hs _ => leaves_of_settled h <|
    (hb k t s).mono (fun _ _ h => h.ownInv hs) (fun _ h => h.ownInv hs) fun _ h => ⟨h.ownInv hs, h.cur⟩

/-- A step that completes the operation has nothing more to hold on to. -/
theorem retWith_leaves {op : Instr} {k : Nat} {s u : State} (hu : OwnInv u) (o : Op) (v : RetVal) :
    (retWith o v u).Leaves op k s := (Minor.emit _ u).ownInv hu

theorem switchChan_ownInv {s : State} (hs : OwnInv s) (c : ChanIx) (on : Bool) : OwnInv (switchChan c on s) := by
  obtain ⟨wf, slots, exchanges, modes⟩ := hs.setChan (c := c) (x := { s.chan c with enabled := on }) (hs.slots c)
  exact ⟨wf, slots, exchanges, modes⟩

theorem dmaEnableSteps_keepsOwnership (c : ChanIx) : KeepsOwnership (.dmaEnable c) (dmaEnableSteps c)
  | 0, t, s, hs, _ => by
    rw [dmaEnableSteps_zero]
    exact retWith_leaves (switchChan_ownInv hs c true) _ _
  | _ + 1, _, _, _, _ => trivial

theorem dmaDisableSteps_keepsOwnership (c : ChanIx) : KeepsOwnership (.dmaDisable c) (dmaDisableSteps c)
  | 0, t, s, hs, _ => by
    rw [dmaDisableSteps_zero]
    exact retWith_leaves (switchChan_ownInv hs c false) _ _
  | _ + 1, _, _, _, _ => trivial

/-- A buffer is on its way to the slot of channel `c`, which is empty. -/
def Handed (c : ChanIx) (b : Buf) (s : State) : Prop := bufOwner s.bufs b.id = .chan c ∧ (s.chan c).slot = none

/-- The buffer of the host's that programming hands over is the channel's then, and changes no slot or exchange (R186). -/
theorem OwnInv.handOver {s u : State} (hs : OwnInv s) {c : ChanIx} {b : Buf} (hb : bufOwner s.bufs b.id = .host)
    (hslot : (s.chan c).slot = none) (hu : Minor (Machine.setOwner b (.chan c) s) u) : OwnInv u ∧ Handed c b u := by
  refine ⟨hu.ownInv (hs.setOwner (hs.free_of_host hb) _), ?_, ?_⟩
  · rw [hu.bufs, setOwner_bufs, bufOwner_bufSet _ _ _ _ hs.wf, if_pos rfl]
  · rw [hu.slot, setOwner_chan, hslot]

theorem OwnInv.fillSlot {s u : State} (hs : OwnInv s) {c : ChanIx} {b : Buf} (hb : Handed c b s) (hu : Minor s u) :
    OwnInv (u.setChan c { u.chan c with slot := some b }) := by
  refine (hu.ownInv hs).setChan fun b' hb' => ?_
  obtain rfl : b = b' := by simpa using hb'
  rw [hu.bufs]
  exact hb.1

theorem Handed.minor {s u : State} {c : ChanIx} {b : Buf} (h : Handed c b s) (hu : Minor s u) : Handed c b u :=
  ⟨hu.bufs ▸ h.1, (hu.slot c).trans h.2⟩

/-- Programming channel `c` is good for an operation that holds on to the handed buffer, and to nothing else but an engine's
attachment, from its step 1 to its step 3. -/
theorem programSteps_leaves {op : Instr} {c : ChanIx} {pid : Pid} {buf : Buf} {len : Word} {next : State → Micro} {k : Nat}
    {t : Word} {s : State} (hheld : 1 ≤ k → k ≤ 3 → Handed c buf s)
    (hhold : ∀ k u, (∀ e, (u.eng e).dma = (s.eng e).dma) → Handed c buf u → midAt op k u)
    (hnext : ∀ u, OwnInv u → (next u).Leaves op k s) (hs : OwnInv s) (hm : midAt op k s) :
    (programSteps c pid buf len next k t s).Leaves op k s := by
  refine programSteps_sat (fun u hu => hu.leaves_stop hs hm) (fun hk hb hslot u hu => ?_) (fun h1 h2 u hu => ?_)
    fun hk u hu => ?_
  · obtain ⟨hu', hhanded⟩ := hs.handOver hb hslot hu
    exact ⟨⟨hu', hk ▸ midAt_zero op u, hu.cur⟩, hu', hhold 1 u hu.dma hhanded⟩
  · exact ⟨hu.ownInv hs, hhold _ u hu.dma ((hheld h1 (by omega)).minor hu)⟩
  · exact hnext _ (hs.fillSlot (hheld (by omega) (by omega)) hu)

theorem doTransferSteps_leaves {op : Instr} {o : Op} {c : ChanIx} {pid : Pid} {buf : Buf} {len : Word} {k : Nat} {t : Word}
    {s : State} (hheld : 1 ≤ k → k ≤ 3 → Handed c buf s)
    (hhold : ∀ k u, (∀ e, (u.eng e).dma = (s.eng e).dma) → Handed c buf u → midAt op k u)
    (hstart : ∀ u, midAt op 4 u) (hs : OwnInv s) (hm : midAt op k s) :
    (doTransferSteps o c pid buf len k t s).Leaves op k s := by
  unfold doTransferSteps
  split
  · exact .access (regWrite_minor _ _ s) (fun u hu => hu.leaves_stop hs hm)
      fun _ u hu => retWith_leaves (hu.ownInv hs) _ _
  · exact programSteps_leaves hheld hhold (fun u hu => ⟨hu, hstart u⟩) hs hm

theorem programSteps_keepsOwnership (c : ChanIx) (pid : Pid) (buf : Buf) (len : Word) :
    KeepsOwnership (.dmaProgram c pid buf len) (programSteps c pid buf len (retWith .dmaProgram .unit)) :=
  fun _ _ _ hs hm => programSteps_leaves hm (fun _ _ _ h _ _ => h) (fun _ hu => retWith_leaves hu _ _) hs hm

theorem doTransferSteps_keepsOwnership (c : ChanIx) (pid : Pid) (buf : Buf) (len : Word) :
    KeepsOwnership (.dmaDoTransfer c pid buf len) (doTransferSteps .dmaDoTransfer c pid buf len) :=
  fun _ _ _ hs hm => doTransferSteps_leaves hm (fun _ _ _ h _ _ => h) (fun _ _ h => absurd h (by decide)) hs hm

theorem serSendBytesSteps_keepsOwnership (e : SerIx) (buf : Buf) (len : Word) :
    KeepsOwnership (.serSendBytes e buf len) (serSendBytesSteps e buf len) := by
  intro k t s hs hm
  obtain ⟨u, h, hu⟩ | ⟨c, p, hdma, h⟩ := serSendBytesSteps_cases e buf len k t s <;> rw [h]
  · exact hu.leaves_stop hs hm
  · refine doTransferSteps_leaves (fun h1 h3 => ?_) (fun _ u hu h _ _ => ⟨c, p, (hu e).trans hdma, h⟩)
      (fun _ _ h => absurd h (by decide)) hs hm
    obtain ⟨c', p', hdma', hhanded⟩ := hm h1 h3
    obtain ⟨rfl, rfl⟩ : c = c' ∧ p = p' := by simpa [hdma] using hdma'
    exact hhanded

/-- An abort is good for every operation with nothing to hold on to, when what follows it is minor. -/
theorem abortSteps_leaves {c : ChanIx} {next : Option Buf → State → Micro} (hnext : ∀ r u, (next r u).After (Minor u))
    {k : Nat} {t : Word} {s : State} (hs : OwnInv s) :
    (abortSteps c next k t s).Sat (fun _ => OwnInv) OwnInv fun u => OwnInv u ∧ CurKept s u :=
  abortSteps_sat (fun _ hu => ⟨hu.ownInv hs, hu.cur⟩) (fun _ hu => hu.ownInv hs) fun u hu =>
    have htaken := (hu.ownInv hs).takeSlot c
    (hnext _ _).mono (fun _ _ h => h.ownInv htaken) (fun _ h => h.ownInv htaken) fun _ h =>
      ⟨h.ownInv htaken, hu.cur.trans (.trans (.inr (by simp [giveBack_cur])) h.cur)⟩

theorem dmaAbort_keepsOwnership (c : ChanIx) :
    KeepsOwnership (.dmaAbort c) (abortSteps c fun r s => retWith .dmaAbort (.buf r) s) :=
  fun _ _ _ hs _ => leaves_of_settled (op := .dmaAbort c) (fun _ _ => trivial)
    (abortSteps_leaves (fun _ u => by exact Minor.emit _ u) hs)

theorem serDmaDoneSteps_leaves {e : SerIx} {k : Nat} {t : Word} {s : State} (hs : OwnInv s) :
    (serDmaDoneSteps e k t s).Sat (fun _ => OwnInv) OwnInv fun u => OwnInv u ∧ CurKept s u := by
  unfold serDmaDoneSteps
  split
  · exact abortSteps_leaves (deliverWriteDone_minor e) hs
  · exact ⟨(Minor.refuse _ s).ownInv hs, .inr rfl⟩

theorem dmaHandleIrqSteps_keepsOwnership (c : ChanIx) : KeepsOwnership (.dmaHandleIrq c) (dmaHandleIrqSteps c) := by
  intro k t s hs _
  refine leaves_of_settled (op := .dmaHandleIrq c) (fun _ _ => trivial) ?_
  obtain h | ⟨e, j, h⟩ := dmaHandleIrqSteps_cases c k t s
  · exact h.mono (fun _ _ h => h.ownInv hs) (fun _ h => h.ownInv hs) fun _ h => ⟨h.ownInv hs, h.cur⟩
  · rw [h]
    exact .shift (serDmaDoneSteps_leaves hs)

theorem dmaSetClientSteps_keepsOwnership (c : ChanIx) (client : Option DmaClient) :
    KeepsOwnership (.dmaSetClient c client) (dmaSetClientSteps c client)
  | 0, _, s, hs, hm =>
    have hset : OwnInv (s.setChan c { s.chan c with client := client }) := hs.setChan (hs.slots c)
    match client with
    | some (.serEngine _) => (Minor.refuse _ s).leaves_stop hs hm
    | none => retWith_leaves hset _ _
    | some (.ext _) => retWith_leaves hset _ _
  | _ + 1, _, _, _, _ => trivial

/-- An engine that is not busy has no exchange in progress (R274). -/
theorem ctx_of_not_busy {s : State} {e : SerIx} (h : ¬ engineBusy s e = true) : (s.eng e).ctx = none := by
  simp only [engineBusy, Bool.or_eq_true, not_or, Option.not_isSome_iff_eq_none] at h
  exact h.1

/-- A step that is assignments of the software and then one register write is good when the assignments are. -/
theorem regWrite_leaves {op : Instr} {k k' : Nat} {s s' : State} (hs' : OwnInv s') (hcur : s'.cur = s.cur)
    (hm : ∀ u, Minor s' u → midAt op k u ∧ midAt op k' u) (a v : Word) :
    ((regWrite a v s').andThen fun _ u => .go k' 0 u).Leaves op k s :=
  .access (regWrite_minor a v s')
    (fun u hu => ⟨hu.ownInv hs', (hm u hu).1, hu.cur.imp_right (·.trans hcur)⟩)
    fun _ u hu => ⟨hu.ownInv hs', (hm u hu).2⟩

theorem serInitSpiSteps_keepsOwnership (e : SerIx) : KeepsOwnership (.serInitSpi e) (serInitSpiSteps e)
  | 0, _, s, hs, hm => by
    rw [serInitSpiSteps]
    split
    · exact (Minor.raise _ s).leaves_stop hs hm
    · have hclock : OwnInv (setClock (.ser e) true s) := hs.setEng_same rfl rfl
      have hspi : OwnInv ((setClock (.ser e) true s).setEng e { (setClock (.ser e) true s).eng e with mode := .spi }) :=
        hclock.setEng fun x hx => ⟨hclock.exchanges e x hx, rfl⟩
      exact regWrite_leaves (op := .serInitSpi e) hspi rfl (fun _ _ => ⟨trivial, trivial⟩) _ _
  | 1, _, s, hs, _ => regWrite_leaves (op := .serInitSpi e) hs rfl (fun _ _ => ⟨trivial, trivial⟩) _ _
  | 2, _, s, hs, hm =>
    .access (regWrite_minor _ _ s) (fun _ hu => hu.leaves_stop hs hm) fun _ _ hu => retWith_leaves (hu.ownInv hs) _ _
  | _ + 3, _, _, _, _ => trivial

theorem serConfigureUartSteps_keepsOwnership (e : SerIx) (p : UartParams) :
    KeepsOwnership (.serConfigureUart e p) (serConfigureUartSteps e p)
  | 0, _, s, hs, hm => by
    rw [serConfigureUartSteps]
    split
    · exact (Minor.raise _ s).leaves_stop hs hm
    · next hidle =>
      split
      · exact (Minor.raise _ s).leaves_stop hs hm
      · have hclock : OwnInv (setClock (.ser e) true s) := hs.setEng_same rfl rfl
        refine regWrite_leaves (op := .serConfigureUart e p) hclock rfl (fun u hu => ⟨midAt_zero _ u, fun _ => ?_⟩) _ _
        rw [setCur_eng, hu.ctx, setClockSer_eng_same]
        exact ctx_of_not_busy hidle
  | 1, _, s, hs, hm => by
    have hidle : (s.eng e).ctx = none := hm rfl
    refine .access (regWrite_minor _ _ s) (fun _ hu => hu.leaves_stop hs hm) fun _ u hu =>
      ⟨(hu.ownInv hs).setEng fun x hx => ?_, fun h => absurd h (by decide)⟩
    have hx : (u.eng e).ctx = some x := hx
    rw [hu.ctx, hidle] at hx
    exact absurd hx nofun
  | 2, _, s, hs, hm =>
    .access (regWrite_minor _ _ s) (fun _ hu => hu.leaves_stop hs hm) fun _ _ hu => retWith_leaves (hu.ownInv hs) _ _
  | _ + 3, _, _, _, _ => trivial

theorem serSetClientSteps_keepsOwnership (e : SerIx) (client : SerClient) :
    KeepsOwnership (.serSetClient e client) (serSetClientSteps e client)
  | 0, _, s, hs, _ =>
    have hset : OwnInv (s.setEng e { s.eng e with client := client }) := hs.setEng_same rfl rfl
    retWith_leaves hset _ _
  | _ + 1, _, _, _, _ => trivial

theorem serAttachDmaSteps_keepsOwnership (e : SerIx) (p : Pid) (c : ChanIx) :
    KeepsOwnership (.serAttachDma e p c) (serAttachDmaSteps e p c)
  | 0, _, s, hs, hm => by
    rw [serAttachDmaSteps]
    split
    · exact (Minor.refuse _ s).leaves_stop hs hm
    · have hdma : OwnInv (s.setEng e { s.eng e with dma := some (c, p) }) := hs.setEng_same rfl rfl
      exact retWith_leaves (hdma.setChan (x := { s.chan c with client := some (.serEngine e) }) (hs.slots c)) _ _
  | _ + 1, _, _, _, _ => trivial

/-- What `midAt` asks at the steps 1 to 4 of SER_READ_WRITE_BYTES (R313). -/
def ExchangeHeld (e : SerIx) (w : Buf) (r : Option Buf) (len : Word) (s : State) : Prop :=
  (s.eng e).mode = .spi ∧ (s.eng e).ctx = none ∧ bufOwner s.bufs w.id = .ser e ∧ 1 ≤ len.toNat ∧ len.toNat ≤ w.cap ∧
    ∀ rb, r = some rb → bufOwner s.bufs rb.id = .ser e ∧ len.toNat ≤ rb.cap

theorem ExchangeHeld.minor {e : SerIx} {w : Buf} {r : Option Buf} {len : Word} {s u : State}
    (h : ExchangeHeld e w r len s) (hu : Minor s u) : ExchangeHeld e w r len u := by
  simpa only [ExchangeHeld, hu.mode, hu.ctx, hu.bufs] using h

/-- The checks of SER_READ_WRITE_BYTES and the change of owners leave what the operation holds on to (R313, R314). -/
theorem OwnInv.startExchange {s : State} (hs : OwnInv s) {e : SerIx} {w : Buf} {r : Option Buf} {len : Word}
    (hbufs : spiBuffersOk w r s = true) (hmode : (s.eng e).mode = .spi) (hctx : (s.eng e).ctx = none)
    (hlen : spiLengthOk w r len = true) :
    OwnInv (Machine.setOwners w r (.ser e) s) ∧ ExchangeHeld e w r len (Machine.setOwners w r (.ser e) s) := by
  simp only [spiBuffersOk, spiLengthOk, Bool.and_eq_true, decide_eq_true_eq] at hbufs hlen
  obtain ⟨hw, hr⟩ := hbufs
  obtain ⟨⟨hpos, hcap⟩, hrcap⟩ := hlen
  cases r with
  | none =>
    have hown := hs.setOwners (r := none) (hs.free_of_host hw) (fun _ => nofun) (.ser e)
    refine ⟨hown, hmode, hctx, ?_, hpos, hcap, fun _ => nofun⟩
    rw [setOwners_eq]
    simp [bufOwner_bufSet _ _ _ _ hs.wf]
  | some rb =>
    simp only [Option.all_some, Bool.and_eq_true, decide_eq_true_eq] at hr hrcap
    have hfree rb' (h : some rb = some rb') : Free rb'.id s := by
      obtain rfl : rb = rb' := by simpa using h
      exact hs.free_of_host hr.1
    have hwf := bufSet_wf _ w (.ser e) hs.wf
    refine ⟨hs.setOwners (hs.free_of_host hw) hfree _, hmode, hctx, ?_, hpos, hcap, fun rb' h => ?_⟩
    · rw [setOwners_eq]
      simp [bufOwner_bufSet _ _ _ _ hs.wf, bufOwner_bufSet _ _ _ _ hwf]
    · obtain rfl : rb = rb' := by simpa using h
      rw [setOwners_eq]
      simp [bufOwner_bufSet _ _ _ _ hwf, hrcap]

theorem serReadWriteBytesSteps_keepsOwnership (e : SerIx) (w : Buf) (r : Option Buf) (len : Word) :
    KeepsOwnership (.serReadWriteBytes e w r len) (serReadWriteBytesSteps e w r len) := by
  have hhold {k : Nat} {u : State} (h : ExchangeHeld e w r len u) : midAt (.serReadWriteBytes e w r len) k u :=
    fun _ _ => h
  intro k t s hs hm
  match k with
  | 0 =>
    rw [serReadWriteBytesSteps]
    split_ifs with hbufs hmode hctx hlen
    · exact (Minor.refuse _ s).leaves_stop hs hm
    · exact (Minor.raise _ s).leaves_stop hs hm
    · exact (Minor.raise _ s).leaves_stop hs hm
    · exact (Minor.raise _ s).leaves_stop hs hm
    · simp only [Bool.not_eq_true', Bool.not_eq_false, ne_eq, not_not, Option.not_isSome_iff_eq_none]
        at hbufs hmode hctx hlen
      obtain ⟨hown, hheld⟩ := hs.startExchange hbufs hmode hctx hlen
      exact regWrite_leaves hown (setOwners_cur _ _ _ _)
        (fun u hu => ⟨hhold (hheld.minor hu), hhold (hheld.minor hu)⟩) _ _
  | 1 | 2 =>
    have hheld : ExchangeHeld e w r len s := hm (by decide) (by decide)
    exact regWrite_leaves hs rfl (fun u hu => ⟨hhold (hheld.minor hu), hhold (hheld.minor hu)⟩) _ _
  | 3 =>
    have hheld : ExchangeHeld e w r len s := hm (by decide) (by decide)
    exact .access (byteRead_minor _ _ s) (fun _ hu => hu.leaves_stop hs hm) fun _ u hu =>
      ⟨hu.ownInv hs, hhold (hheld.minor hu)⟩
  | 4 =>
    have hheld : ExchangeHeld e w r len s := hm (by decide) (by decide)
    refine .access (regWrite_minor _ _ s) (fun _ hu => hu.leaves_stop hs hm) fun _ u hu => ?_
    obtain ⟨hmode, _, hw, hpos, hcap, hr⟩ := hheld.minor hu
    refine retWith_leaves ((hu.ownInv hs).setEng fun x hx => ?_) _ _
    obtain rfl : (⟨w, r, len.toNat, 0⟩ : SpiCtx) = x := by simpa using hx
    exact ⟨⟨hw, hpos, hcap, hr⟩, hmode⟩
  | _ + 5 => trivial

theorem OwnInv.storeByte {s : State} (hs : OwnInv s) (a : Word) (x : Byte) : OwnInv (s.storeByte a x) :=
  ⟨hs.wf, hs.slots, hs.exchanges, hs.modes⟩

/-- The cursor of an exchange that is not at the last index moves inside the buffers (R66, R320). -/
theorem OwnInv.moveCursor {s : State} (hs : OwnInv s) {e : SerIx} {x : SpiCtx} (hx : (s.eng e).ctx = some x)
    (hlast : x.cursor ≠ x.len - 1) :
    OwnInv (s.setEng e { s.eng e with ctx := some { x with cursor := x.cursor + 1 } }) := by
  obtain ⟨hw, hcursor, hcap, hr⟩ := hs.exchanges e x hx
  refine hs.setEng fun y hy => ?_
  obtain rfl : { x with cursor := x.cursor + 1 } = y := by simpa using hy
  exact ⟨⟨hw, by simp only; omega, hcap, hr⟩, hs.modes e x hx⟩

theorem serHandleIrqSteps_keepsOwnership (e : SerIx) : KeepsOwnership (.serHandleIrq e) (serHandleIrqSteps e) := by
  intro k t s hs _
  refine leaves_of_settled (op := .serHandleIrq e) (fun _ _ => trivial) ?_
  refine serHandleIrqSteps_sat (fun u hu => ⟨fun _ => hu.ownInv hs, hu.ownInv hs, hu.ownInv hs, hu.cur⟩) ?_
    (fun a b _ => hs.storeByte a b) ?_
  · rintro x u hx hlast (hu | ⟨a, b, _, rfl⟩)
    · exact (hu.ownInv hs).moveCursor hx hlast
    · exact (hs.storeByte a b).moveCursor hx hlast
  · intro x u hu hx
    have hend := (hu.ownInv hs).endExchange hx
    exact (spiComplete_minor e x _).mono (fun _ _ h => h.ownInv hend) (fun _ h => h.ownInv hend) fun v h =>
      ⟨h.ownInv hend, hu.cur.trans (.trans (.inr (by simp [setOwners_cur])) h.cur)⟩

theorem cpuBody_keepsOwnership (i : Instr) : KeepsOwnership i (cpuBody i) := by
  cases i with
  | dmaEnable c => exact dmaEnableSteps_keepsOwnership c
  | dmaDisable c => exact dmaDisableSteps_keepsOwnership c
  | dmaProgram c pid buf len => exact programSteps_keepsOwnership c pid buf len
  | dmaDoTransfer c pid buf len => exact doTransferSteps_keepsOwnership c pid buf len
  | dmaAbort c => exact dmaAbort_keepsOwnership c
  | dmaHandleIrq c => exact dmaHandleIrqSteps_keepsOwnership c
  | dmaSetClient c client => exact dmaSetClientSteps_keepsOwnership c client
  | serConfigureUart e p => exact serConfigureUartSteps_keepsOwnership e p
  | serSendBytes e buf len => exact serSendBytesSteps_keepsOwnership e buf len
  | serInitSpi e => exact serInitSpiSteps_keepsOwnership e
  | serReadWriteBytes e w r len => exact serReadWriteBytesSteps_keepsOwnership e w r len
  | serHandleIrq e => exact serHandleIrqSteps_keepsOwnership e
  | serDmaDone e p =>
    exact fun _ _ _ hs _ => leaves_of_settled (op := .serDmaDone e p) (fun _ _ => trivial) (serDmaDoneSteps_leaves hs)
  | serSetClient e client => exact serSetClientSteps_keepsOwnership e client
  | serAttachDma e p c => exact serAttachDmaSteps_keepsOwnership e p c
  | _ => exact (cpuBody_minor rfl).keepsOwnership (settled_of_accessOnly rfl)

theorem exec_ownership {i : Instr} {s s' : State} (hs : OwnInv s) (hm : MidInv s) (h : exec i s = .next s') :
    OwnInv s' ∧ MidInv s' := by
  obtain h | ⟨l, rfl⟩ | ⟨c, a, x, _, h⟩ | rfl := exec_next_cases h
  · exact ⟨h.ownInv hs, h.midInv hm⟩
  · refine ⟨⟨hs.wf, hs.slots, hs.exchanges, hs.modes⟩, (midInv_iff (t := 0) rfl).2 (midAt_zero (lineHandler l) _)⟩
  · exact ⟨h.ownInv (hs.storeByte a x), h.midInv (s := s.storeByte a x) hm⟩
  · exact runCpu_ownership (cpuBody_keepsOwnership i) hs hm

/-- Settles O54. Every step keeps `OwnInv` and `MidInv` together; two slots with one buffer would give it two owners. -/
theorem ownershipKept : Obligations.OwnershipKept := by
  refine ⟨fun s s' hdata ⟨slots, exchanges, modes, hm⟩ h => ?_, fun s c d a b ⟨slots, _⟩ ha hb hab => ?_⟩
  · have minor {u v : State} (huv : Minor u v) (hu : OwnInv u ∧ MidInv u) : OwnInv v ∧ MidInv v :=
      ⟨huv.ownInv hu.1, huv.midInv hu.2⟩
    obtain ⟨⟨_, slots', exchanges', modes'⟩, hm'⟩ : OwnInv s' ∧ MidInv s' :=
      step_keeps (I := fun u => OwnInv u ∧ MidInv u)
        (fun u hu => ⟨⟨hu.1.wf, hu.1.slots, hu.1.exchanges, hu.1.modes⟩, hu.2⟩) (fun u rest => minor (.popTurn u rest))
        (fun u b => minor (.withBurst u b)) (fun u q => minor (.withExtReq u q)) (fun u n => minor (.advance u n))
        (fun u r => minor (.refuse r u)) (fun _ _ _ hu => exec_ownership hu.1 hu.2)
        ⟨⟨hdata.2, slots, exchanges, modes⟩, hm⟩ h
    exact ⟨slots', exchanges', modes', hm'⟩
  · have hc := slots c a ha
    have hd := slots d b hb
    rw [hab, hd] at hc
    exact (Owner.chan.inj hc).symm

end Sys2Proof.Machine
end

section
/-! PROOF. Which register an address names (20_memory R90, R94; 10_state R38, R50): the block and the index are read off the
quotient, the register off the remainder, and every register of the tables is at its own address only. -/

namespace Sys2Proof.Machine

theorem chanOffset_lt (r : ChanReg) : chanOffset r < dmaStride := by cases r <;> decide

theorem serOffset_lt (r : SerReg) : serOffset r < serStride := by cases r <;> decide

theorem chanOffset_aligned (r : ChanReg) : chanOffset r % 4 = 0 := by cases r <;> rfl

theorem serOffset_aligned (r : SerReg) : serOffset r % 4 = 0 := by cases r <;> rfl

theorem chanRegAt?_offset {off : Nat} {r : ChanReg} (h : chanRegAt? off = some r) : chanOffset r = off := by
  simpa using List.find?_some h

theorem serRegAt?_offset {off : Nat} {r : SerReg} (h : serRegAt? off = some r) : serOffset r = off := by
  simpa using List.find?_some h

theorem chanAddr_toNat (c : ChanIx) (r : ChanReg) : (chanAddr c r).toNat = 0x400A2000 + 0x40 * c.val + chanOffset r := by
  have hc := c.isLt
  have hr := chanOffset_lt r
  simp only [Config.nCh, dmaStride] at hc hr
  simp only [chanAddr, chanBase, dmaBase, dmaStride, BitVec.toNat_ofNat]
  omega

theorem serAddr_toNat (e : SerIx) (r : SerReg) : (serAddr e r).toNat = 0x40024000 + 0x4000 * e.val + serOffset r := by
  have he := e.isLt
  have hr := serOffset_lt r
  simp only [Config.nSer, serStride] at he hr
  simp only [serAddr, serBase, serBase0, serStride, BitVec.toNat_ofNat]
  omega

/-- An address names a channel's register only when it is that register's. -/
theorem eq_chanAddr_of_regAt {a : Word} {c : ChanIx} {r : ChanReg} (h : regAt a = some (.chan c r)) : a = chanAddr c r := by
  unfold regAt at h
  split at h
  · next hblock =>
    obtain ⟨r', hr', heq⟩ := Option.map_eq_some_iff.1 h
    obtain ⟨rfl, rfl⟩ : Fin.ofNat Config.nCh ((a.toNat - dmaBase) / dmaStride) = c ∧ r' = r := by simpa using heq
    have hoffset := chanRegAt?_offset hr'
    apply BitVec.eq_of_toNat_eq
    rw [chanAddr_toNat, hoffset]
    simp only [inChanBlocks, Config.nCh, dmaBase, dmaStride, Fin.val_ofNat] at hblock ⊢
    omega
  · split at h
    · obtain ⟨_, _, heq⟩ := Option.map_eq_some_iff.1 h
      exact absurd heq nofun
    · exact absurd h nofun

/-- An address names an engine's register only when it is that register's. -/
theorem eq_serAddr_of_regAt {a : Word} {e : SerIx} {r : SerReg} (h : regAt a = some (.ser e r)) : a = serAddr e r := by
  unfold regAt at h
  split at h
  · obtain ⟨_, _, heq⟩ := Option.map_eq_some_iff.1 h
    exact absurd heq nofun
  · split at h
    · next hblock =>
      obtain ⟨r', hr', heq⟩ := Option.map_eq_some_iff.1 h
      obtain ⟨rfl, rfl⟩ : Fin.ofNat Config.nSer ((a.toNat - serBase0) / serStride) = e ∧ r' = r := by simpa using heq
      have hoffset := serRegAt?_offset hr'
      apply BitVec.eq_of_toNat_eq
      rw [serAddr_toNat, hoffset]
      simp only [inSerBlocks, Config.nSer, serBase0, serStride, Fin.val_ofNat] at hblock ⊢
      omega
    · exact absurd h nofun

theorem regAt_eq_chan_iff (a : Word) (c : ChanIx) (r : ChanReg) :
    regAt a = some (.chan c r) ↔ a.toNat = 0x400A2000 + 0x40 * c.val + chanOffset r := by
  rw [← chanAddr_toNat, ← BitVec.toNat_eq]
  exact ⟨eq_chanAddr_of_regAt, fun h => h ▸ regAt_chanAddr c r⟩

theorem regAt_eq_ser_iff (a : Word) (e : SerIx) (r : SerReg) :
    regAt a = some (.ser e r) ↔ a.toNat = 0x40024000 + 0x4000 * e.val + serOffset r := by
  rw [← serAddr_toNat, ← BitVec.toNat_eq]
  exact ⟨eq_serAddr_of_regAt, fun h => h ▸ regAt_serAddr e r⟩

theorem regAt_misaligned {a : Word} (h : a.toNat % 4 ≠ 0) : regAt a = none := by
  cases hr : regAt a with
  | none => rfl
  | some r =>
    cases r with
    | chan c r =>
      have ha := (regAt_eq_chan_iff a c r).1 hr
      have haligned := chanOffset_aligned r
      omega
    | ser e r =>
      have ha := (regAt_eq_ser_iff a e r).1 hr
      have haligned := serOffset_aligned r
      omega

/-- Settles O10. The two tables are the offset functions, row by row. -/
theorem addressMap : Obligations.AddressMap := by
  unfold Obligations.AddressMap
  intro chanTable serTable
  have hchan : ∀ p ∈ chanTable, p.2 = chanOffset p.1 := by decide
  have hser : ∀ p ∈ serTable, p.2 = serOffset p.1 := by decide
  refine ⟨fun a c p hp => ?_, fun a e p hp => ?_, fun r => ?_, fun r => ?_, fun _ => regAt_misaligned⟩
  · rw [hchan p hp]
    exact ⟨regAt_eq_chan_iff a c p.1, chanAddr_toNat c p.1⟩
  · rw [hser p hp]
    exact ⟨regAt_eq_ser_iff a e p.1, serAddr_toNat e p.1⟩
  · cases r <;> decide
  · cases r <;> decide

end Sys2Proof.Machine
end

section
/-! PROOF. Reads and writes of each register by the host (40_register_access R170, R171; 10_state R42 to R59; 20_memory R91,
R92): one equation for a read and one for a write, and then each register's own value and effect. -/

namespace Sys2Proof.Machine

variable {s : State} {a v : Word} {r : RegRef} {c : ChanIx} {e : SerIx}

theorem exec_regRead (hs : s.Ready) (hr : regAt a = some r) (hclk : clocked s r = true) :
    exec (.regRead a) s = .next (emit (.ret .regRead (.word (regValue r s))) (regReadEffect r s)) := by
  have hstep : regReadSteps a 0 0 s = .ret (emit (.ret .regRead (.word (regValue r s))) (regReadEffect r s)) := by
    rw [regReadSteps, regRead_done hr hclk]
    rfl
  have hidle : (regReadEffect r s).cur = none := (regReadEffect_frame r s).1.trans hs.2.2.1
  refine (runHost_ready hs).trans (congrArg _ ?_)
  exact (runSteps_ret _ hstep).trans (finish_of_idle hidle)

theorem exec_regWrite (hs : s.Ready) (hr : regAt a = some r) (hclk : clocked s r = true) :
    exec (.regWrite a v) s = .next (emit (.ret .regWrite .unit) (regWriteEffect r v s)) := by
  have hstep : regWriteSteps a v 0 0 s = .ret (emit (.ret .regWrite .unit) (regWriteEffect r v s)) := by
    rw [regWriteSteps, regWrite_done hr hclk]
    rfl
  have hidle : (regWriteEffect r v s).cur = none := (regWriteEffect_frame r v s).1.trans hs.2.2.1
  refine (runHost_ready hs).trans (congrArg _ ?_)
  exact (runSteps_ret _ hstep).trans (finish_of_idle hidle)

/-- A read of a channel register that holds or derives a value returns it and changes nothing. -/
theorem exec_regRead_chan {q : ChanReg} (hs : s.Ready) (hgate : s.dmaGate = true) (hv : chanRead? q (s.chan c) = some v) :
    exec (.regRead (chanAddr c q)) s = .next (emit (.ret .regRead (.word v)) s) := by
  rw [exec_regRead hs (regAt_chanAddr c q) hgate]
  simp [regValue, regReadEffect, hv]

/-- A read of a write-only channel register returns a draw and uses it up. -/
theorem exec_regRead_chan_draw {q : ChanReg} (hs : s.Ready) (hgate : s.dmaGate = true)
    (hv : chanRead? q (s.chan c) = none) :
    exec (.regRead (chanAddr c q)) s =
      .next (emit (.ret .regRead (.word (Config.drawWord s.sched.draws))) (s.advance 1)) := by
  rw [exec_regRead hs (regAt_chanAddr c q) hgate]
  simp [regValue, regReadEffect, hv]

theorem exec_regWrite_chan {q : ChanReg} (hs : s.Ready) (hgate : s.dmaGate = true) :
    exec (.regWrite (chanAddr c q) v) s =
      .next (emit (.ret .regWrite .unit) (s.setChan c (chanWrite q v (s.chan c)))) :=
  exec_regWrite hs (regAt_chanAddr c q) hgate

/-- ISR reads as TRC and RCZ at count 0 and as RCZ alone elsewhere (R47). -/
theorem chanIsr_zeroExtend (x : Chan) : (chanIsr x).zeroExtend 32 = if x.tcr = 0 then (3 : Word) else 1 := by
  unfold chanIsr
  split <;> rfl

/-- Settles O13, register by register. -/
theorem channelRegisterReads : Obligations.ChannelRegisterReads := by
  intro s c hs hgate
  constructor
  · intro p hp
    refine exec_regRead_chan hs hgate ?_
    simp only [List.mem_cons, List.not_mem_nil, or_false] at hp
    obtain rfl | rfl | rfl | rfl | rfl | rfl | rfl := hp
    · rfl
    · rfl
    · rfl
    · rfl
    · rfl
    · rfl
    · exact congrArg some (chanIsr_zeroExtend _)
  · intro r hr
    refine exec_regRead_chan_draw hs hgate ?_
    simp only [List.mem_cons, List.not_mem_nil, or_false] at hr
    obtain rfl | rfl | rfl := hr <;> rfl

/-- Settles O15: the whole effect of a write is `chanWrite`, and each row is its equation for that register. -/
theorem channelRegisterWrites : Obligations.ChannelRegisterWrites := by
  intro s c v hs hgate p hp
  rw [exec_regWrite_chan hs hgate]
  suffices h : chanWrite p.1 v (s.chan c) = p.2 by rw [h]
  simp only [List.mem_cons, List.not_mem_nil, or_false] at hp
  obtain rfl | rfl | rfl | rfl | rfl | rfl | rfl | rfl | rfl | rfl := hp <;> rfl

/-- A read of a serial register that holds or derives a value, RHR apart, returns it and changes nothing. -/
theorem exec_regRead_ser {q : SerReg} (hs : s.Ready) (hclk : (s.eng e).clkOn = true) (hq : q ≠ .rhr)
    (hv : serRead? q (s.eng e) = some v) :
    exec (.regRead (serAddr e q)) s = .next (emit (.ret .regRead (.word v)) s) := by
  rw [exec_regRead hs (regAt_serAddr e q) hclk]
  simp [regValue, regReadEffect, hv]

/-- A read of a write-only serial register returns a draw and uses it up. -/
theorem exec_regRead_ser_draw {q : SerReg} (hs : s.Ready) (hclk : (s.eng e).clkOn = true)
    (hv : serRead? q (s.eng e) = none) :
    exec (.regRead (serAddr e q)) s =
      .next (emit (.ret .regRead (.word (Config.drawWord s.sched.draws))) (s.advance 1)) := by
  have hq : q ≠ .rhr := by rintro rfl; exact absurd hv nofun
  rw [exec_regRead hs (regAt_serAddr e q) hclk]
  simp [regValue, regReadEffect, hv]

theorem exec_regWrite_ser {q : SerReg} (hs : s.Ready) (hclk : (s.eng e).clkOn = true) :
    exec (.regWrite (serAddr e q) v) s = .next (emit (.ret .regWrite .unit) (serWrite e q v s)) :=
  exec_regWrite hs (regAt_serAddr e q) hclk

/-- Settles O14, register by register; RHR is the one whose read has an effect. -/
theorem serialRegisterReads : Obligations.SerialRegisterReads := by
  intro s e hs hclk
  refine ⟨fun p hp => ?_, exec_regRead hs (regAt_serAddr e .rhr) hclk, fun r hr => ?_⟩
  · simp only [List.mem_cons, List.not_mem_nil, or_false] at hp
    obtain rfl | rfl | rfl | rfl | rfl := hp <;> exact exec_regRead_ser hs hclk nofun rfl
  · refine exec_regRead_ser_draw hs hclk ?_
    simp only [List.mem_cons, List.not_mem_nil, or_false] at hr
    obtain rfl | rfl | rfl | rfl := hr <;> rfl

/-- Settles O16. The draw of R282 is the model's own draw of a bit. -/
theorem serialRegisterWrites : Obligations.SerialRegisterWrites := by
  intro s e v hs hclk
  refine ⟨fun p hp => ?_, fun hempty => ?_, fun hfull => ⟨Config.drawBool s.sched.draws, ?_⟩⟩ <;>
    rw [exec_regWrite_ser hs hclk]
  · suffices h : serWrite e p.1 v s = s.setEng e p.2 by rw [h]
    simp only [List.mem_cons, List.not_mem_nil, or_false] at hp
    obtain rfl | rfl | rfl | rfl | rfl | rfl | rfl | rfl := hp
    · rfl
    · rfl
    · rfl
    · rfl
    · rfl
    · exact (setEng_self s e).symm
    · exact (setEng_self s e).symm
    · exact (setEng_self s e).symm
  · simp [serWrite, thrWrite, hempty]
  · simp [serWrite, thrWrite, hfull]

end Sys2Proof.Machine
end

section
/-! PROOF. The machine at reset and after the boot step (10_state R70 to R77; 70_reset_and_hazards R412). -/

namespace Sys2Proof.Machine

@[simp] theorem reset_chan (c : ChanIx) : State.reset.chan c = Chan.reset c := by
  simp [State.chan, State.reset, Vector.get_eq_getElem]

@[simp] theorem reset_eng (e : SerIx) : State.reset.eng e = Ser.reset e := by
  simp [State.eng, State.reset, Vector.get_eq_getElem]

@[simp] theorem reset_dmaMasked (c : ChanIx) : State.reset.dmaMasked.get c = true := by
  simp [State.reset, Vector.get_eq_getElem]

@[simp] theorem reset_serMasked (e : SerIx) : State.reset.serMasked.get e = true := by
  simp [State.reset, Vector.get_eq_getElem]

/-- With every interrupt of the channel off its line is not asserted (R47). -/
theorem reset_chanIrq (c : ChanIx) : chanIrq (Chan.reset c) = false := by
  simp [chanIrq, Chan.reset]

/-- Settles O50, from what each channel and each engine is at reset. -/
theorem resetState : Obligations.ResetState := by
  refine ⟨⟨rfl, rfl, rfl, rfl⟩, ⟨rfl, rfl⟩, fun c => ?_, fun e => ?_, fun _ => rfl⟩
  · rw [reset_chan]
    exact ⟨rfl, rfl, rfl, rfl, rfl, rfl, rfl, reset_chanIrq c, reset_dmaMasked c⟩
  · rw [reset_eng]
    exact ⟨rfl, rfl, rfl, rfl, rfl, rfl, rfl, rfl, rfl, rfl, rfl, rfl, rfl, rfl, rfl, rfl, reset_serMasked e⟩

theorem reset_clockInv : ClockInv State.reset := by
  refine ⟨?_, rfl, fun c => ?_⟩
  · have hoff c : (State.reset.chan c).enabled = false := by rw [reset_chan]; rfl
    simp only [enabledCount, hoff]
    rfl
  · simp [Chan.reset]

/-- No slot is filled, no exchange is in progress and no operation either. -/
theorem reset_ownershipInv : OwnershipInv State.reset :=
  ⟨fun c b h => by simp [Chan.reset] at h, fun e x h => by simp [Ser.reset] at h, fun e x h => by simp [Ser.reset] at h,
    midInv_of_idle rfl⟩

theorem reset_bindInv : BindInv State.reset := fun c e h => by simp [Chan.reset] at h

/-- Settles O51. The first step is the boot step, and the invariants do not look at what it changes. -/
theorem resetMeetsInvariants : Obligations.ResetMeetsInvariants := by
  have hreset := And.intro reset_clockInv (And.intro reset_dataInv (And.intro reset_ownershipInv reset_bindInv))
  refine ⟨hreset, boot State.reset, rfl, hreset, fun e => ?_, rfl⟩
  simp [Vector.get_eq_getElem]

end Sys2Proof.Machine
end

section
/-! PROOF. Where memory changes (20_memory R96, R103; 10_state R62). Of the CPU operations only SER_HANDLE_IRQ writes memory:
every other one keeps it in every step. SER_HANDLE_IRQ, until it ends, changes the owner of no buffer, so that a byte it
stores lies in a buffer that its engine owned when the turn began. -/

namespace Sys2Proof.Machine

/-! ## A step as one instruction -/

/-- The host's operation is an instruction executed, or a refusal. -/
theorem issue_cases {ws : List Word} {s s' : State} (h : issue ws s = .next s') :
    Minor s s' ∨ ∃ i, exec i s = .next s' := by
  unfold issue at h
  split at h
  · cases h
    exact .inl (.refuse _ s)
  · split at h
    · exact .inr ⟨_, h⟩
    · cases h
      exact .inl (.refuse _ s)

/-- The step of another agent is an instruction executed, a refusal, or nothing. -/
theorem agentStep_cases {ws : List Word} {s s' : State} (h : agentStep ws s = .next s') :
    Minor s s' ∨ ∃ i, exec i s = .next s' := by
  unfold agentStep at h
  split at h
  · cases h
    exact .inl (.refuse _ s)
  · split at h
    · cases h
      exact .inl (.refl s)
    · exact .inr ⟨_, h⟩

/-- A turn, once it is taken off the schedule, makes minor changes or executes one instruction. -/
theorem takeTurn_next {s s' : State} (h : takeTurn s = .next s') :
    ∃ u, Minor s u ∧ (Minor u s' ∨ ∃ i, exec i u = .next s') := by
  unfold takeTurn at h
  split at h
  · obtain ⟨_, hf⟩ | ⟨i, _, hf⟩ := freeStep_cases s <;> rw [hf] at h
    · cases h
    · exact ⟨_, ((Minor.withBurst s none).trans (.withExtReq _ false)).trans (.advance _ 1), .inr ⟨i, h⟩⟩
  · exact ⟨_, (Minor.popTurn s _).trans (.withBurst _ _), .inr ⟨_, h⟩⟩
  · cases h
    exact ⟨_, (Minor.popTurn s _).trans (.withBurst _ _), .inl (.refl _)⟩
  · exact ⟨_, .withBurst s none, .inr ⟨_, h⟩⟩
  · exact ⟨_, (Minor.popTurn s _).trans (.withBurst _ _), issue_cases h⟩
  · exact ⟨_, (Minor.popTurn s _).trans (.withExtReq _ _), agentStep_cases h⟩

/-- A step is the boot step, or minor changes around at most one instruction. -/
theorem step_instr_cases {s s' : State} (h : step s = .next s') :
    s' = boot s ∨ ∃ u, Minor s u ∧ (Minor u s' ∨ ∃ i, exec i u = .next s') := by
  obtain ⟨_, rfl⟩ | ⟨_, _, ⟨_, _, _, rest, _, rfl⟩ | ⟨_, ht⟩⟩ := step_next h
  · exact .inl rfl
  · exact .inr ⟨_, .popTurn s rest, .inl (.refuse _ _)⟩
  · exact .inr (takeTurn_next ht)

/-! ## Operations that write no memory -/

/-- Every step of the operation leaves memory as it is. -/
def Body.KeepsMem (b : Body) : Prop := ∀ k t s, (b k t s).After fun u => u.mem = s.mem

section
variable {m : Mem}

theorem Micro.After.mem_of_minor {x : Micro} {s : State} (hx : x.After (Minor s)) (hs : s.mem = m) :
    x.After fun u => u.mem = m :=
  hx.mono (fun _ _ h => h.mem.trans hs) (fun _ h => h.mem.trans hs) fun _ h => h.mem.trans hs

/-- An access that writes no memory, and then steps that write none. -/
theorem mem_access {α : Type} {s : State} {x : Access α} {f : α → State → Micro} (hx : x.Within (Minor s))
    (hs : s.mem = m) (hf : ∀ v u, u.mem = m → (f v u).After fun u => u.mem = m) :
    (x.andThen f).After fun u => u.mem = m :=
  .access hx (fun _ h => h.mem.trans hs) fun v u h => hf v u (h.mem.trans hs)

end

theorem Body.IsMinor.keepsMem {b : Body} (h : b.IsMinor) : b.KeepsMem := fun k t s => (h k t s).mem_of_minor rfl

theorem giveBack_mem (r : Option Buf) (s : State) : (giveBack r s).mem = s.mem := by rw [giveBack_eq]

theorem setOwners_mem (w : Buf) (r : Option Buf) (o : Owner) (s : State) : (setOwners w r o s).mem = s.mem := by
  rw [setOwners_eq]

theorem dmaEnableSteps_keepsMem (c : ChanIx) : (dmaEnableSteps c).KeepsMem
  | 0, t, s => by
    rw [dmaEnableSteps_zero]
    rfl
  | _ + 1, _, _ => trivial

theorem dmaDisableSteps_keepsMem (c : ChanIx) : (dmaDisableSteps c).KeepsMem
  | 0, t, s => by
    rw [dmaDisableSteps_zero]
    rfl
  | _ + 1, _, _ => trivial

theorem programSteps_keepsMem (c : ChanIx) (pid : Pid) (buf : Buf) (len : Word) {next : State → Micro}
    (hnext : ∀ u, (next u).After fun v => v.mem = u.mem) : (programSteps c pid buf len next).KeepsMem := fun _ _ s =>
  programSteps_sat (fun _ h => h.mem) (fun _ _ _ _ h => ⟨h.mem, h.mem⟩) (fun _ _ _ h => h.mem) fun _ u h => by
    have := hnext (u.setChan c { u.chan c with slot := some buf })
    rwa [setChan_mem, h.mem] at this

theorem doTransferSteps_keepsMem (op : Op) (c : ChanIx) (pid : Pid) (buf : Buf) (len : Word) :
    (doTransferSteps op c pid buf len).KeepsMem := fun k t s => by
  unfold doTransferSteps
  split
  · exact (startStep_minor op c s).mem_of_minor rfl
  · exact programSteps_keepsMem c pid buf len (fun _ => by exact rfl) k t s

theorem abortSteps_keepsMem (c : ChanIx) {next : Option Buf → State → Micro}
    (hnext : ∀ r u, (next r u).After (Minor u)) : (abortSteps c next).KeepsMem := fun _ _ _ =>
  abortSteps_sat (fun _ h => h.mem) (fun _ h => h.mem) fun _ h =>
    (hnext _ _).mem_of_minor ((giveBack_mem _ _).trans h.mem)

theorem serDmaDoneSteps_keepsMem (e : SerIx) : (serDmaDoneSteps e).KeepsMem := fun k t s => by
  unfold serDmaDoneSteps
  split
  · exact abortSteps_keepsMem _ (deliverWriteDone_minor e) k t s
  · rfl

theorem dmaHandleIrqSteps_keepsMem (c : ChanIx) : (dmaHandleIrqSteps c).KeepsMem := fun k t s => by
  obtain h | ⟨e, j, h⟩ := dmaHandleIrqSteps_cases c k t s
  · exact h.mem_of_minor rfl
  · rw [h]
    exact .shift (serDmaDoneSteps_keepsMem e j t s)

theorem dmaSetClientSteps_keepsMem (c : ChanIx) (client : Option DmaClient) : (dmaSetClientSteps c client).KeepsMem
  | 0, _, _ =>
    match client with
    | some (.serEngine _) | none | some (.ext _) => rfl
  | _ + 1, _, _ => trivial

theorem serConfigureUartSteps_keepsMem (e : SerIx) (p : UartParams) : (serConfigureUartSteps e p).KeepsMem
  | 0, _, s => by
    rw [serConfigureUartSteps]
    split
    · rfl
    · split
      · rfl
      · exact mem_access (regWrite_minor _ _ _) rfl fun _ _ h => h
  | 1, _, s => mem_access (regWrite_minor _ _ s) rfl fun _ _ h => h
  | 2, _, s => mem_access (regWrite_minor _ _ s) rfl fun _ _ h => h
  | _ + 3, _, _ => trivial

theorem serSendBytesSteps_keepsMem (e : SerIx) (buf : Buf) (len : Word) : (serSendBytesSteps e buf len).KeepsMem := by
  intro k t s
  obtain ⟨u, h, hu⟩ | ⟨c, p, _, h⟩ := serSendBytesSteps_cases e buf len k t s <;> rw [h]
  · exact hu.mem
  · exact doTransferSteps_keepsMem _ c p buf len k t s

theorem serInitSpiSteps_keepsMem (e : SerIx) : (serInitSpiSteps e).KeepsMem
  | 0, _, s => by
    rw [serInitSpiSteps]
    split
    · rfl
    · exact mem_access (regWrite_minor _ _ _) rfl fun _ _ h => h
  | 1, _, s => mem_access (regWrite_minor _ _ s) rfl fun _ _ h => h
  | 2, _, s => mem_access (regWrite_minor _ _ s) rfl fun _ _ h => h
  | _ + 3, _, _ => trivial

theorem serReadWriteBytesSteps_keepsMem (e : SerIx) (w : Buf) (r : Option Buf) (len : Word) :
    (serReadWriteBytesSteps e w r len).KeepsMem
  | 0, _, s => by
    rw [serReadWriteBytesSteps]
    split_ifs
    · rfl
    · rfl
    · rfl
    · rfl
    · exact mem_access (regWrite_minor _ _ _) (setOwners_mem w r _ s) fun _ _ h => h
  | 1, _, s => mem_access (regWrite_minor _ _ s) rfl fun _ _ h => h
  | 2, _, s => mem_access (regWrite_minor _ _ s) rfl fun _ _ h => h
  | 3, _, s => mem_access (byteRead_minor _ _ s) rfl fun _ _ h => h
  | 4, _, s => mem_access (regWrite_minor _ _ s) rfl fun _ _ h => h
  | _ + 5, _, _ => trivial

theorem serSetClientSteps_keepsMem (e : SerIx) (client : SerClient) : (serSetClientSteps e client).KeepsMem
  | 0, _, _ => rfl
  | _ + 1, _, _ => trivial

theorem serAttachDmaSteps_keepsMem (e : SerIx) (p : Pid) (c : ChanIx) : (serAttachDmaSteps e p c).KeepsMem
  | 0, _, s => by
    rw [serAttachDmaSteps]
    split
    · rfl
    · rfl
  | _ + 1, _, _ => trivial

/-- Only the engine's interrupt handler writes memory. -/
theorem cpuBody_keepsMem {i : Instr} (hi : ∀ e, i ≠ .serHandleIrq e) : (cpuBody i).KeepsMem := by
  cases i with
  | dmaEnable c => exact dmaEnableSteps_keepsMem c
  | dmaDisable c => exact dmaDisableSteps_keepsMem c
  | dmaProgram c pid buf len => exact programSteps_keepsMem c pid buf len fun _ => by exact rfl
  | dmaDoTransfer c pid buf len => exact doTransferSteps_keepsMem _ c pid buf len
  | dmaAbort c => exact abortSteps_keepsMem c (next := fun r => retWith .dmaAbort (.buf r)) fun _ u => Minor.emit _ u
  | dmaHandleIrq c => exact dmaHandleIrqSteps_keepsMem c
  | dmaSetClient c client => exact dmaSetClientSteps_keepsMem c client
  | serConfigureUart e p => exact serConfigureUartSteps_keepsMem e p
  | serSendBytes e buf len => exact serSendBytesSteps_keepsMem e buf len
  | serInitSpi e => exact serInitSpiSteps_keepsMem e
  | serReadWriteBytes e w r len => exact serReadWriteBytesSteps_keepsMem e w r len
  | serHandleIrq e => exact absurd rfl (hi e)
  | serDmaDone e _ => exact serDmaDoneSteps_keepsMem e
  | serSetClient e client => exact serSetClientSteps_keepsMem e client
  | serAttachDma e p c => exact serAttachDmaSteps_keepsMem e p c
  | _ => exact (cpuBody_minor rfl).keepsMem

/-! ## Changes inside owned buffers -/

/-- From `s` to `t` memory changes only inside buffers that a channel or an engine owns in `s` (R96, R103). -/
def MemIsolated (s t : State) : Prop :=
  ∀ a, memRead t.mem a ≠ memRead s.mem a →
    ∃ (w : Word) (who : Owner), w.toNat = a ∧ who ≠ .host ∧ ownsAddr s.bufs who w = true

section
variable {s t u : State}

theorem MemIsolated.of_mem_eq (h : t.mem = s.mem) : MemIsolated s t := fun _ ha => absurd (h ▸ rfl) ha

theorem MemIsolated.then_mem_eq (h : MemIsolated s t) (hu : u.mem = t.mem) : MemIsolated s u := by
  rwa [MemIsolated, hu]

/-- One more byte is stored, in a buffer that was owned from the start. -/
theorem MemIsolated.then_storeByte (h : MemIsolated s t) {who : Owner} {a : Word} (x : Byte) (hwho : who ≠ .host)
    (ha : ownsAddr s.bufs who a = true) : MemIsolated s (t.storeByte a x) := fun a' hne => by
  by_cases haddr : a' = a.toNat
  · exact ⟨a, who, haddr.symm, hwho, ha⟩
  · have hsame : memRead (t.storeByte a x).mem a' = memRead t.mem a' := memRead_memWrite_other t.mem x haddr
    exact h a' (hsame ▸ hne)

end

/-- What holds at each step of the handler in one turn: it has stored bytes of owned buffers only, and no buffer has changed
its owner. -/
def StoresOnly (s u : State) : Prop := MemIsolated s u ∧ u.bufs = s.bufs

theorem StoresOnly.minor {s u v : State} (h : StoresOnly s u) (hv : Minor u v) : StoresOnly s v :=
  ⟨h.1.then_mem_eq hv.mem, hv.bufs.trans h.2⟩

theorem StoresOnly.storeByte {s u : State} (h : StoresOnly s u) {e : SerIx} {a : Word} (x : Byte)
    (ha : ownsAddr u.bufs (.ser e) a = true) : StoresOnly s (u.storeByte a x) :=
  ⟨h.1.then_storeByte (who := .ser e) x nofun (h.2 ▸ ha), h.2⟩

/-- The operation ends with the exchange (R321). -/
theorem spiComplete_ends (e : SerIx) (x : SpiCtx) (s : State) :
    (spiComplete e x s).Sat (fun _ _ => False) (fun u => u.mem = s.mem) fun u => u.mem = s.mem := by
  unfold spiComplete
  dsimp only
  split
  · exact setOwners_mem x.w x.r .host s
  · exact setOwners_mem x.w x.r .host s
  · exact setOwners_mem x.w x.r .host s

/-- The end of the exchange gives its buffers back, and the operation ends with it; every other step of SER_HANDLE_IRQ at
most stores a byte of a buffer of its engine's (R320, R321). -/
theorem serHandleIrqSteps_isolated {e : SerIx} {k : Nat} {t : Word} {s u : State} (hu : StoresOnly s u) :
    (serHandleIrqSteps e k t u).Sat (fun _ => StoresOnly s) (MemIsolated s) (MemIsolated s) := by
  refine serHandleIrqSteps_sat (fun v hv => ⟨fun _ => hu.minor hv, (hu.minor hv).1, (hu.minor hv).1⟩) ?_
    (fun a b ha => hu.storeByte b ha) ?_
  · rintro x v - - (hv | ⟨a, b, ha, rfl⟩)
    · obtain ⟨hmem, hbufs⟩ := hu.minor hv
      exact ⟨hmem, hbufs⟩
    · obtain ⟨hmem, hbufs⟩ := hu.storeByte b ha
      exact ⟨hmem, hbufs⟩
  · intro x v hv _
    exact (spiComplete_ends e x _).mono (fun _ _ => False.elim) (fun _ h => (hu.minor hv).1.then_mem_eq h)
      fun _ h => (hu.minor hv).1.then_mem_eq h

/-! ## Turns and steps -/

/-- A turn of the CPU agent whose steps take `J` to `J` while the operation goes on, and to `I` where it ends. -/
theorem runCpu_sat {op : Instr} {b : Body} {I J : State → Prop} {s : State}
    (hb : ∀ k t u, J u → (b k t u).Sat (fun _ => J) I I) (hJ : ∀ u o, J u → J (setCur o u))
    (hI : ∀ u, I u → I (finish u)) (hJI : ∀ u, J u → I u) (hs : J s) : I (runCpu op b s) := by
  have run n k t : I (runSteps op b n k t s) := by
    refine runSteps_induct (J := fun _ _ => J) (fun _ _ u h => hJI _ (hJ u _ h)) (fun k t u k' t' u' h hstep => ?_)
      (fun k t u u' h hstep => ?_) (fun k t u u' h hstep => ?_) n k t s hs
    all_goals
      have hu := hb k t u h
      rw [hstep] at hu
    · exact hJ u' _ hu
    · exact hI u' hu
    · exact hu
  obtain ⟨_, h⟩ | ⟨k, t, _, h⟩ | ⟨_, _, _, h⟩ := runCpu_cases op b s <;> rw [h]
  · exact run _ _ _
  · exact run _ _ _
  · exact hJI s hs

/-- The CPU agent's turn at an operation that writes no memory. -/
theorem Body.KeepsMem.runCpu_mem {op : Instr} {b : Body} (hb : b.KeepsMem) (s : State) : (runCpu op b s).mem = s.mem :=
  runCpu_sat (I := fun u => u.mem = s.mem) (J := fun u => u.mem = s.mem)
    (fun k t u hu => (hb k t u).mono (fun _ _ h => h.trans hu) (fun _ h => h.trans hu) fun _ h => h.trans hu)
    (fun _ _ h => h) (fun _ h => h) (fun _ h => h) rfl

/-- The CPU agent's turn at any operation. -/
theorem runCpu_isolated (i : Instr) (s : State) : MemIsolated s (runCpu i (cpuBody i) s) := by
  by_cases hi : ∃ e, i = .serHandleIrq e
  · obtain ⟨e, rfl⟩ := hi
    exact runCpu_sat (J := StoresOnly s) (fun _ _ _ => serHandleIrqSteps_isolated) (fun _ _ h => h) (fun _ h => h)
      (fun _ h => h.1) ⟨.of_mem_eq rfl, rfl⟩
  · exact .of_mem_eq ((cpuBody_keepsMem fun e he => hi ⟨e, he⟩).runCpu_mem s)

theorem exec_isolated {i : Instr} {s s' : State} (h : exec i s = .next s') : MemIsolated s s' := by
  obtain h | ⟨l, rfl⟩ | ⟨c, a, x, ha, h⟩ | rfl := exec_next_cases h
  · exact .of_mem_eq h.mem
  · exact .of_mem_eq rfl
  · have hstore : MemIsolated s (s.storeByte a x) := (MemIsolated.of_mem_eq rfl).then_storeByte (who := .chan c) x nofun ha
    exact hstore.then_mem_eq h.mem
  · exact runCpu_isolated i s

/-- What comes before the instruction of a step changes neither memory nor the table of owned buffers. -/
theorem Minor.then_isolated {s u v : State} (h : Minor s u) (hv : MemIsolated u v) : MemIsolated s v := by
  rwa [MemIsolated, h.mem, h.bufs] at hv

/-- Settles O58: a step is at most one instruction, and each instruction stores bytes of owned buffers only. -/
theorem memoryIsolation : Obligations.MemoryIsolation := by
  intro s s' a h
  have hisolated : MemIsolated s s' := by
    obtain rfl | ⟨u, hu, h | ⟨i, h⟩⟩ := step_instr_cases h
    · exact .of_mem_eq rfl
    · exact .of_mem_eq (hu.trans h).mem
    · exact hu.then_isolated (exec_isolated h)
  exact hisolated a

end Sys2Proof.Machine
end

section
/-! PROOF. Operations stopped at their first access (20_memory R93, R94, R356; 70_reset_and_hazards R432): the fault or the
refusal of the access is all that such an operation does. -/

namespace Sys2Proof.Machine

variable {i : Instr} {s s' : State} {a v : Word} {r : RegRef}

/-- An instruction that the host may issue is a host operation, with its own steps (R149). -/
theorem exec_eq_runHost (hi : i.op.hostMayIssue = true) (s : State) : exec i s = runHost i (cpuBody i) s := by
  cases i with
  | dmaHandleIrq | serHandleIrq | serDmaDone | irqDispatch | evDmaStep | evSerLoad | evSerShift | evSerRxArrive
  | evHardFault => exact absurd hi Bool.false_ne_true
  | _ => rfl

theorem regRead_unmodelled (h : regAt a = none) : regRead a s = .stop (refuse .unmodelledRegister s) := by
  simp [regRead, h]

theorem regWrite_unmodelled (h : regAt a = none) : regWrite a v s = .stop (refuse .unmodelledRegister s) := by
  simp [regWrite, h]

theorem regRead_gated (h : regAt a = some r) (hclk : clocked s r = false) :
    regRead a s = .stop (raise (.clockGatedAccess a) s) := by
  simp [regRead, h, hclk]

theorem regWrite_gated (h : regAt a = some r) (hclk : clocked s r = false) :
    regWrite a v s = .stop (raise (.clockGatedAccess a) s) := by
  simp [regWrite, h, hclk]

/-- An operation that begins with an access does nothing more when the access stops it. -/
theorem exec_of_access_stop {α : Type} {x : Access α} {f : α → State → Micro} (hi : i.op.hostMayIssue = true)
    (hs : s.Ready) (hx : x = .stop s') (hbody : cpuBody i 0 0 s = x.andThen f) : exec i s = .next s' := by
  have hstop : cpuBody i 0 0 s = .stop s' := by rw [hbody, hx, andThen_stop]
  rw [exec_eq_runHost hi, runHost_ready hs, maxSteps, runSteps_stop _ hstop]

/-- Settles O12. Each of the four operations begins with a read or with the write. -/
theorem registerOperationStops : Obligations.RegisterOperationStops := by
  intro s a v hi lo hs i hmem
  simp only [List.mem_cons, List.not_mem_nil, or_false] at hmem
  obtain rfl | rfl | rfl | rfl := hmem
  · exact ⟨fun h => exec_of_access_stop rfl hs (regRead_unmodelled h) rfl,
      fun r h hclk => exec_of_access_stop rfl hs (regRead_gated h hclk) rfl⟩
  · exact ⟨fun h => exec_of_access_stop rfl hs (regWrite_unmodelled h) rfl,
      fun r h hclk => exec_of_access_stop rfl hs (regWrite_gated h hclk) rfl⟩
  · exact ⟨fun h => exec_of_access_stop rfl hs (regRead_unmodelled h) rfl,
      fun r h hclk => exec_of_access_stop rfl hs (regRead_gated h hclk) rfl⟩
  · exact ⟨fun h => exec_of_access_stop rfl hs (regRead_unmodelled h) rfl,
      fun r h hclk => exec_of_access_stop rfl hs (regRead_gated h hclk) rfl⟩

/-- Settles O26. Each of the eleven operations begins with an access of the register that the fault names. -/
theorem gatedOperations : Obligations.GatedOperations := by
  constructor
  · intro s c hs hgate
    have read q : regRead (chanAddr c q) s = _ := regRead_gated (regAt_chanAddr c q) hgate
    have write q v : regWrite (chanAddr c q) v s = _ := regWrite_gated (regAt_chanAddr c q) hgate
    exact ⟨exec_of_access_stop rfl hs (write .cr _) rfl, exec_of_access_stop rfl hs (write .idr _) rfl,
      exec_of_access_stop rfl hs (read .tcr) rfl⟩
  · intro s e v hs hclk
    have read q : regRead (serAddr e q) s = _ := regRead_gated (regAt_serAddr e q) hclk
    have write q v : regWrite (serAddr e q) v s = _ := regWrite_gated (regAt_serAddr e q) hclk
    refine ⟨fun i hi => ?_, fun i hi => ?_⟩ <;> simp only [List.mem_cons, List.not_mem_nil, or_false] at hi
    · obtain rfl | rfl | rfl | rfl := hi
      · exact exec_of_access_stop rfl hs (write .cr _) rfl
      · exact exec_of_access_stop rfl hs (write .cr _) rfl
      · exact exec_of_access_stop rfl hs (write .cr _) rfl
      · exact exec_of_access_stop rfl hs (write .cr _) rfl
    · obtain rfl | rfl | rfl | rfl := hi
      · exact exec_of_access_stop rfl hs (read .mr) rfl
      · exact exec_of_access_stop rfl hs (read .mr) rfl
      · exact exec_of_access_stop rfl hs (read .mr) rfl
      · exact exec_of_access_stop rfl hs (read .mr) rfl

end Sys2Proof.Machine
end

section
/-! PROOF. Turns of the CPU agent (00_scope R21; 20_memory R97). No step of a host operation looks at the CPU agent's place
or at the bound of its turn (`Body.Blind`), so that a run can be cut in two: the second turn begins where the first one
stopped, and makes the steps that one longer turn would have made. A refusal keeps the place that the CPU agent had, and is
the one end of a run that tells the cuts apart. -/

namespace Sys2Proof.Machine

/-- The machine with the CPU agent at another place and in a turn with another bound. -/
def State.withTurn (o : Option Cur) (b : Option Nat) (s : State) : State := setCur o (s.withBurst b)

section
variable (o : Option Cur) (b : Option Nat) (s : State)

@[simp] theorem withTurn_bufs : (s.withTurn o b).bufs = s.bufs := rfl
@[simp] theorem withTurn_mem : (s.withTurn o b).mem = s.mem := rfl
@[simp] theorem withTurn_chan (c : ChanIx) : (s.withTurn o b).chan c = s.chan c := rfl
@[simp] theorem withTurn_eng (e : SerIx) : (s.withTurn o b).eng e = s.eng e := rfl

@[simp] theorem clocked_withTurn (r : RegRef) : clocked (s.withTurn o b) r = clocked s r := by cases r <;> rfl

@[simp] theorem regValue_withTurn (r : RegRef) : regValue r (s.withTurn o b) = regValue r s := by cases r <;> rfl

@[simp] theorem regReadEffect_withTurn (r : RegRef) :
    regReadEffect r (s.withTurn o b) = (regReadEffect r s).withTurn o b := by
  cases r with
  | chan c q => cases q <;> rfl
  | ser e q => cases q <;> rfl

@[simp] theorem crWrite_withTurn (e : SerIx) (v : Word) :
    crWrite e v (s.withTurn o b) = (crWrite e v s).withTurn o b := by
  rw [crWrite_eq, crWrite_eq]
  rfl

@[simp] theorem thrWrite_withTurn (e : SerIx) (x : Byte) :
    thrWrite e x (s.withTurn o b) = (thrWrite e x s).withTurn o b := by
  cases h : (s.eng e).thrFull <;> simp only [thrWrite, withTurn_eng, h, if_true, Bool.false_eq_true, if_false] <;> rfl

@[simp] theorem regWriteEffect_withTurn (r : RegRef) (v : Word) :
    regWriteEffect r v (s.withTurn o b) = (regWriteEffect r v s).withTurn o b := by
  cases r with
  | chan c q => rfl
  | ser e q =>
    cases q with
    | cr => exact crWrite_withTurn o b s e v
    | thr => exact thrWrite_withTurn o b s e _
    | mr | ier | idr | imr | csr | rhr | brgr | ttgr => rfl

@[simp] theorem giveBack_withTurn (r : Option Buf) : giveBack r (s.withTurn o b) = (giveBack r s).withTurn o b := by
  cases r <;> rfl

@[simp] theorem setOwners_withTurn (w : Buf) (r : Option Buf) (who : Owner) :
    setOwners w r who (s.withTurn o b) = (setOwners w r who s).withTurn o b := by
  cases r <;> rfl

@[simp] theorem switchChan_withTurn (c : ChanIx) (on : Bool) :
    switchChan c on (s.withTurn o b) = (switchChan c on s).withTurn o b := rfl

end

/-! ## Steps that do not look at the turn -/

/-- Two outcomes of an access, the second from a state that differs from the first in the turn alone. -/
inductive Access.Alike {α : Type} (o : Option Cur) (b : Option Nat) : Access α → Access α → Prop
  | done (v : α) (u : State) : Alike o b (.done v u) (.done v (u.withTurn o b))
  | fault (f : FaultRec) (u : State) : Alike o b (.stop (raise f u)) (.stop (raise f (u.withTurn o b)))
  | refuse (r : RefuseReason) (u : State) :
      Alike o b (.stop (Machine.refuse r u)) (.stop (Machine.refuse r (u.withTurn o b)))

/-- Two outcomes of a step, the second from a state that differs from the first in the turn alone. -/
inductive Micro.Alike (o : Option Cur) (b : Option Nat) : Micro → Micro → Prop
  | go (k : Nat) (t : Word) (u : State) : Alike o b (.go k t u) (.go k t (u.withTurn o b))
  | hold : Alike o b .hold .hold
  | ret (u : State) : Alike o b (.ret u) (.ret (u.withTurn o b))
  | fault (f : FaultRec) (u : State) : Alike o b (.stop (raise f u)) (.stop (raise f (u.withTurn o b)))
  | refuse (r : RefuseReason) (u : State) :
      Alike o b (.stop (Machine.refuse r u)) (.stop (Machine.refuse r (u.withTurn o b)))

section
variable {o : Option Cur} {b : Option Nat}

theorem regRead_alike (a : Word) (s : State) : (regRead a s).Alike o b (regRead a (s.withTurn o b)) := by
  unfold regRead
  split
  · exact .refuse _ s
  · rw [clocked_withTurn, regValue_withTurn, regReadEffect_withTurn]
    split
    · exact .done _ _
    · exact .fault _ s

theorem regWrite_alike (a v : Word) (s : State) : (regWrite a v s).Alike o b (regWrite a v (s.withTurn o b)) := by
  unfold regWrite
  split
  · exact .refuse _ s
  · rw [clocked_withTurn, regWriteEffect_withTurn]
    split
    · exact .done _ _
    · exact .fault _ s

theorem byteRead_alike (who : Owner) (a : Word) (s : State) :
    (byteRead who a s).Alike o b (byteRead who a (s.withTurn o b)) := by
  unfold byteRead
  rw [withTurn_bufs, withTurn_mem]
  split
  · exact .done _ s
  · exact .fault _ s

namespace Micro.Alike

theorem access {α : Type} {x y : Access α} {f g : α → State → Micro} (hx : x.Alike o b y)
    (hf : ∀ v u, (f v u).Alike o b (g v (u.withTurn o b))) : (x.andThen f).Alike o b (y.andThen g) := by
  cases hx with
  | done v u => exact hf v u
  | fault f u => exact .fault f u
  | refuse r u => exact .refuse r u

protected theorem ite {p : Prop} [Decidable p] {m n m' n' : Micro} (hm : p → m.Alike o b m')
    (hn : ¬ p → n.Alike o b n') : (if p then m else n).Alike o b (if p then m' else n') := by
  by_cases hp : p
  · rw [if_pos hp, if_pos hp]
    exact hm hp
  · rw [if_neg hp, if_neg hp]
    exact hn hp

end Micro.Alike

/-- A last step that is one access and returns a value. -/
theorem access_retWith_alike {α : Type} {x y : Access α} (hx : x.Alike o b y) (op : Op) (r : α → RetVal) :
    (x.andThen fun v u => retWith op (r v) u).Alike o b (y.andThen fun v u => retWith op (r v) u) :=
  .access hx fun _ u => .ret (emit _ u)

end

/-- No step of the operation looks at the CPU agent's place or at the bound of its turn. -/
def Body.Blind (body : Body) : Prop := ∀ k t s o b, (body k t s).Alike o b (body k t (s.withTurn o b))

theorem regReadSteps_blind (a : Word) : (regReadSteps a).Blind
  | 0, _, s, _, _ => access_retWith_alike (regRead_alike a s) _ _
  | _ + 1, _, _, _, _ => .hold

theorem regWriteSteps_blind (a v : Word) : (regWriteSteps a v).Blind
  | 0, _, s, _, _ => access_retWith_alike (regWrite_alike a v s) _ _
  | _ + 1, _, _, _, _ => .hold

theorem regFieldGetSteps_blind (hi lo : Fin 32) (a : Word) : (regFieldGetSteps hi lo a).Blind
  | 0, _, s, _, _ => access_retWith_alike (regRead_alike a s) _ _
  | _ + 1, _, _, _, _ => .hold

theorem fieldSetSteps_blind (op : Op) (a : Word) (hi lo : Fin 32) (v : Word) : (fieldSetSteps op a hi lo v).Blind
  | 0, _, s, _, _ => .access (regRead_alike a s) fun _ u => .go _ _ u
  | 1, _, s, _, _ => access_retWith_alike (regWrite_alike a _ s) _ _
  | _ + 2, _, _, _, _ => .hold

theorem dmaEnableSteps_blind (c : ChanIx) : (dmaEnableSteps c).Blind
  | 0, _, s, _, _ => by
    rw [dmaEnableSteps_zero, dmaEnableSteps_zero, switchChan_withTurn]
    exact .ret (emit _ _)
  | _ + 1, _, _, _, _ => .hold

theorem dmaDisableSteps_blind (c : ChanIx) : (dmaDisableSteps c).Blind
  | 0, _, s, _, _ => by
    rw [dmaDisableSteps_zero, dmaDisableSteps_zero, switchChan_withTurn]
    exact .ret (emit _ _)
  | _ + 1, _, _, _, _ => .hold

theorem programSteps_blind (c : ChanIx) (pid : Pid) (buf : Buf) (len : Word) {next : State → Micro}
    (hnext : ∀ u o b, (next u).Alike o b (next (u.withTurn o b))) : (programSteps c pid buf len next).Blind
  | 0, _, s, _, _ => by
    refine .ite (fun _ => .refuse _ s) fun _ => ?_
    rw [withTurn_chan]
    split
    · exact .fault _ s
    · exact .ite (fun _ => .fault _ s) fun _ =>
        .access (regWrite_alike _ _ (setOwner buf (.chan c) s)) fun _ u => .go _ _ u
  | 1, _, s, _, _ => .access (regWrite_alike _ _ s) fun _ u => .go _ _ u
  | 2, _, s, _, _ => .access (regWrite_alike _ _ s) fun _ u => .go _ _ u
  | 3, _, s, _, _ => .access (regWrite_alike _ _ s) fun _ u => hnext (u.setChan c { u.chan c with slot := some buf }) _ _
  | _ + 4, _, _, _, _ => .hold

theorem startStep_alike (op : Op) (c : ChanIx) (s : State) (o : Option Cur) (b : Option Nat) :
    (startStep op c s).Alike o b (startStep op c (s.withTurn o b)) :=
  access_retWith_alike (regWrite_alike _ _ s) _ _

theorem dmaStartSteps_blind (c : ChanIx) : (dmaStartSteps c).Blind
  | 0, _, s, _, _ => startStep_alike _ c s _ _
  | _ + 1, _, _, _, _ => .hold

theorem doTransferSteps_blind (op : Op) (c : ChanIx) (pid : Pid) (buf : Buf) (len : Word) :
    (doTransferSteps op c pid buf len).Blind := fun k t s o b =>
  .ite (fun _ => startStep_alike op c s o b) fun _ =>
    programSteps_blind c pid buf len (fun u _ _ => .go _ _ u) k t s o b

theorem abortSteps_blind (c : ChanIx) {next : Option Buf → State → Micro}
    (hnext : ∀ r u o b, (next r u).Alike o b (next r (u.withTurn o b))) : (abortSteps c next).Blind
  | 0, _, s, _, _ => .access (regWrite_alike _ _ s) fun _ u => .go _ _ u
  | 1, _, s, o, b => .access (regWrite_alike _ _ s) fun _ u => by
    have htaken := hnext (u.chan c).slot (giveBack (u.chan c).slot (u.setChan c { u.chan c with slot := none })) o b
    rwa [← giveBack_withTurn] at htaken
  | _ + 2, _, _, _, _ => .hold

theorem dmaXferCountSteps_blind (c : ChanIx) : (dmaXferCountSteps c).Blind
  | 0, _, s, _, _ => access_retWith_alike (regRead_alike _ s) _ _
  | _ + 1, _, _, _, _ => .hold

theorem dmaSetClientSteps_blind (c : ChanIx) (client : Option DmaClient) : (dmaSetClientSteps c client).Blind
  | 0, _, s, _, _ =>
    match client with
    | some (.serEngine _) => .refuse _ s
    | none => .ret (emit _ (s.setChan c { s.chan c with client := none }))
    | some (.ext k) => .ret (emit _ (s.setChan c { s.chan c with client := some (.ext k) }))
  | _ + 1, _, _, _, _ => .hold

theorem serConfigureUartSteps_blind (e : SerIx) (p : UartParams) : (serConfigureUartSteps e p).Blind
  | 0, _, s, _, _ => by
    refine .ite (fun _ => .fault _ s) fun _ => ?_
    split
    · exact .fault _ s
    · exact .access (regWrite_alike _ _ (setClock (.ser e) true s)) fun _ u => .go _ _ u
  | 1, _, s, _, _ => .access (regWrite_alike _ _ s) fun _ u => .go _ _ (u.setEng e { u.eng e with mode := .uart })
  | 2, _, s, _, _ => access_retWith_alike (regWrite_alike _ _ s) _ _
  | _ + 3, _, _, _, _ => .hold

theorem serSendByteSteps_blind (e : SerIx) (x : Byte) : (serSendByteSteps e x).Blind
  | 0, _, s, _, _ =>
    .ite (fun _ => .fault _ s) fun _ => .access (regRead_alike _ s) fun _ u => .ite (fun _ => .go _ _ u) fun _ => .hold
  | 1, _, s, _, _ => access_retWith_alike (regWrite_alike _ _ s) _ _
  | _ + 2, _, _, _, _ => .hold

/-- The checks of SER_SEND_BYTES do not look at the turn either (R264). -/
theorem sendBytesCheck_alike (e : SerIx) (buf : Buf) (s : State) (o : Option Cur) (b : Option Nat) :
    (∃ u v, sendBytesCheck e buf s = .inl u ∧ sendBytesCheck e buf (s.withTurn o b) = .inl v ∧
      (Micro.stop u).Alike o b (.stop v)) ∨
      ∃ cp, sendBytesCheck e buf s = .inr cp ∧ sendBytesCheck e buf (s.withTurn o b) = .inr cp := by
  unfold sendBytesCheck
  rw [withTurn_bufs, withTurn_eng]
  split
  · exact .inl ⟨_, _, rfl, rfl, .refuse _ s⟩
  · split
    · exact .inl ⟨_, _, rfl, rfl, .fault _ s⟩
    · split
      · exact .inl ⟨_, _, rfl, rfl, .fault _ s⟩
      · rw [withTurn_chan]
        split
        · exact .inl ⟨_, _, rfl, rfl, .fault _ s⟩
        · exact .inr ⟨_, rfl, rfl⟩

theorem serSendBytesSteps_blind (e : SerIx) (buf : Buf) (len : Word) : (serSendBytesSteps e buf len).Blind
  | 0, t, s, o, b => by
    rw [serSendBytesSteps, serSendBytesSteps]
    obtain ⟨u, v, hu, hv, h⟩ | ⟨cp, hs, hs'⟩ := sendBytesCheck_alike e buf s o b
    · rw [hu, hv]
      exact h
    · rw [hs, hs']
      exact doTransferSteps_blind _ cp.1 cp.2 buf len 0 t s o b
  | k + 1, t, s, o, b => by
    rw [serSendBytesSteps, serSendBytesSteps, withTurn_eng]
    split
    · next c p _ => exact doTransferSteps_blind _ c p buf len (k + 1) t s o b
    · exact .refuse _ s

theorem serInitSpiSteps_blind (e : SerIx) : (serInitSpiSteps e).Blind
  | 0, _, s, _, _ =>
    .ite (fun _ => .fault _ s) fun _ =>
      .access (regWrite_alike _ _ ((setClock (.ser e) true s).setEng e _)) fun _ u => .go _ _ u
  | 1, _, s, _, _ => .access (regWrite_alike _ _ s) fun _ u => .go _ _ u
  | 2, _, s, _, _ => access_retWith_alike (regWrite_alike _ _ s) _ _
  | _ + 3, _, _, _, _ => .hold

theorem serReadWriteBytesSteps_blind (e : SerIx) (w : Buf) (r : Option Buf) (len : Word) :
    (serReadWriteBytesSteps e w r len).Blind
  | 0, _, s, o, b => by
    refine .ite (fun _ => .refuse _ s) fun _ => .ite (fun _ => .fault _ s) fun _ => .ite (fun _ => .fault _ s) fun _ =>
      .ite (fun _ => .fault _ s) fun _ => ?_
    rw [setOwners_withTurn]
    exact .access (regWrite_alike _ _ _) fun _ u => .go _ _ u
  | 1, _, s, _, _ => .access (regWrite_alike _ _ s) fun _ u => .go _ _ u
  | 2, _, s, _, _ => .access (regWrite_alike _ _ s) fun _ u => .go _ _ u
  | 3, _, s, _, _ => .access (byteRead_alike _ _ s) fun _ u => .go _ _ u
  | 4, _, s, _, _ =>
    .access (regWrite_alike _ _ s) fun _ u =>
      .ret (emit _ (u.setEng e { u.eng e with ctx := some ⟨w, r, len.toNat, 0⟩ }))
  | _ + 5, _, _, _, _ => .hold

theorem serSetClientSteps_blind (e : SerIx) (client : SerClient) : (serSetClientSteps e client).Blind
  | 0, _, s, _, _ => .ret (emit _ (s.setEng e { s.eng e with client := client }))
  | _ + 1, _, _, _, _ => .hold

theorem serAttachDmaSteps_blind (e : SerIx) (p : Pid) (c : ChanIx) : (serAttachDmaSteps e p c).Blind
  | 0, _, s, _, _ => .ite (fun _ => .refuse _ s) fun _ =>
    .ret (emit _ ((s.setEng e { s.eng e with dma := some (c, p) }).setChan c
      { s.chan c with client := some (.serEngine e) }))
  | _ + 1, _, _, _, _ => .hold

theorem crCommandSteps_blind (op : Op) (e : SerIx) (v : Word) : (crCommandSteps op e v).Blind
  | 0, _, s, _, _ => access_retWith_alike (regWrite_alike _ _ s) _ _
  | _ + 1, _, _, _, _ => .hold

theorem mrBitSteps_blind (op : Op) (e : SerIx) (i : Nat) : (mrBitSteps op e i).Blind
  | 0, _, s, _, _ => access_retWith_alike (regRead_alike _ s) _ _
  | _ + 1, _, _, _, _ => .hold

theorem fixedSteps_blind (op : Op) (v : RetVal) : (fixedSteps op v).Blind
  | 0, _, s, _, _ => .ret (emit _ s)
  | _ + 1, _, _, _, _ => .hold

/-- Every host operation. -/
theorem cpuBody_blind {i : Instr} (hhost : i.op.hostMayIssue = true) : (cpuBody i).Blind := by
  cases i with
  | regRead a => exact regReadSteps_blind a
  | regWrite a v => exact regWriteSteps_blind a v
  | regFieldGet hi lo a => exact regFieldGetSteps_blind hi lo a
  | regFieldSet hi lo a v => exact fieldSetSteps_blind _ a hi lo v
  | dmaEnable c => exact dmaEnableSteps_blind c
  | dmaDisable c => exact dmaDisableSteps_blind c
  | dmaProgram c pid buf len => exact programSteps_blind c pid buf len fun u _ _ => .ret (emit _ u)
  | dmaStart c => exact dmaStartSteps_blind c
  | dmaDoTransfer c pid buf len => exact doTransferSteps_blind _ c pid buf len
  | dmaAbort c => exact abortSteps_blind c (next := fun r => retWith .dmaAbort (.buf r)) fun _ u _ _ => .ret (emit _ u)
  | dmaXferCount c => exact dmaXferCountSteps_blind c
  | dmaSetClient c client => exact dmaSetClientSteps_blind c client
  | serConfigureUart e p => exact serConfigureUartSteps_blind e p
  | serSendByte e x => exact serSendByteSteps_blind e x
  | serSendBytes e buf len => exact serSendBytesSteps_blind e buf len
  | serInitSpi e => exact serInitSpiSteps_blind e
  | serReadWriteBytes e w r len => exact serReadWriteBytesSteps_blind e w r len
  | serSetClient e client => exact serSetClientSteps_blind e client
  | serAttachDma e p c => exact serAttachDmaSteps_blind e p c
  | serEnableTx e | serDisableTx e | serEnableRx e | serDisableRx e => exact crCommandSteps_blind _ e _
  | spiSetClock e v | spiSetPhase e v => exact fieldSetSteps_blind _ _ _ _ _
  | spiGetClock e | spiGetPhase e => exact mrBitSteps_blind _ e _
  | spiSetRate | spiGetRate | spiSetChipSelect | spiGetChipSelect => exact fixedSteps_blind _ _
  | dmaHandleIrq | serHandleIrq | serDmaDone | irqDispatch | evDmaStep | evSerLoad | evSerShift | evSerRxArrive
  | evHardFault => exact absurd hhost Bool.false_ne_true

/-! ## Runs cut in two -/

/-- Two ends of a run: the second is the first but for the bound of the turn, or both are refused. -/
def EndsAlike (b : Option Nat) (u v : State) : Prop := v = u.withBurst b ∨ (u.refused = true ∧ v.refused = true)

theorem EndsAlike.eq_of_not_refused {b : Option Nat} {u v : State} (h : EndsAlike b u v) (hv : v.refused = false) :
    v = u.withBurst b :=
  h.resolve_right fun hr => Bool.false_ne_true (hv.symm.trans hr.2)

section
variable {op : Instr} {body : Body}

/-- A run from another place of the CPU agent and with another bound of the turn ends alike: its first step that is made puts
the CPU agent where the operation stands. -/
theorem runSteps_withTurn (hb : body.Blind) (n k : Nat) (t : Word) (s : State) (o : Option Cur) (b : Option Nat) :
    EndsAlike b (runSteps op body n k t s) (runSteps op body n k t (s.withTurn o b)) := by
  induction n generalizing k t s o with
  | zero => exact .inl rfl
  | succ n ih =>
    have hstep := hb k t s o b
    rw [runSteps, runSteps]
    generalize body k t s = m at hstep ⊢
    generalize body k t (s.withTurn o b) = m' at hstep ⊢
    cases hstep with
    | go k' t' u => exact ih k' t' (setCur (some ⟨op, k', t'⟩) u) (some ⟨op, k', t'⟩)
    | hold => exact .inl rfl
    | ret u => exact .inl rfl
    | fault f u => exact .inl rfl
    | refuse r u => exact .inr ⟨rfl, rfl⟩

/-- An operation that a fault or a refusal ends is no longer in progress, or the run is refused. -/
theorem Body.Blind.stopped (hb : body.Blind) {k : Nat} {t : Word} {s u : State} (h : body k t s = .stop u) :
    u.cur = none ∨ u.refused = true := by
  have hstep := hb k t s none none
  rw [h] at hstep
  generalize body k t (s.withTurn none none) = m at hstep
  cases hstep with
  | fault f u => exact .inl rfl
  | refuse r u => exact .inr rfl

/-- A run of `a` steps that leaves the operation in progress, and then a run of `b`, end as a run of `a + b`. -/
theorem runSteps_add (hb : body.Blind) (a b k : Nat) (t : Word) (s : State)
    (hcur : (runSteps op body a k t s).cur.isSome = true) (hr : (runSteps op body a k t s).refused = false) :
    ∃ k' t' x, (runSteps op body a k t s).cur = some ⟨op, k', t'⟩ ∧
      EndsAlike x (runSteps op body (a + b) k t s) (runSteps op body b k' t' (runSteps op body a k t s)) := by
  induction a generalizing k t s with
  | zero =>
    rw [Nat.zero_add]
    exact ⟨k, t, s.sched.burst, rfl, runSteps_withTurn hb b k t s (some ⟨op, k, t⟩) s.sched.burst⟩
  | succ a ih =>
    rw [Nat.succ_add]
    cases hstep : body k t s with
    | go k' t' u =>
      rw [runSteps_go _ hstep] at hcur hr ⊢
      rw [runSteps_go _ hstep]
      exact ih k' t' _ hcur hr
    | hold =>
      rw [runSteps_hold _ hstep, runSteps_hold _ hstep]
      refine ⟨k, t, s.sched.burst, rfl, ?_⟩
      have hagain := runSteps_withTurn (op := op) hb b k t s (some ⟨op, k, t⟩) s.sched.burst
      cases b with
      | zero => exact hagain
      | succ b => rwa [runSteps_hold _ hstep] at hagain
    | ret u =>
      rw [runSteps_ret _ hstep] at hcur
      exact absurd hcur Bool.false_ne_true
    | stop u =>
      rw [runSteps_stop _ hstep] at hcur hr
      obtain hidle | hrefused := hb.stopped hstep
      · rw [hidle] at hcur
        exact absurd hcur Bool.false_ne_true
      · exact absurd (hr.symm.trans hrefused) Bool.false_ne_true

/-- The bound that a state carries does not matter to a run of a given number of steps. -/
theorem runSteps_withBurst (hb : body.Blind) (n k : Nat) (t : Word) (s : State) (b : Option Nat) :
    EndsAlike b (runSteps op body n k t s) (runSteps op body n k t (s.withBurst b)) :=
  runSteps_withTurn hb n k t s s.cur b

theorem runCpu_idle {s : State} (h : s.cur = none) : runCpu op body s = runSteps op body (turnSteps s) 0 0 s := by
  simp [runCpu, h]

theorem runCpu_inProgress {s : State} {k : Nat} {t : Word} (h : s.cur = some ⟨op, k, t⟩) :
    runCpu op body s = runSteps op body (turnSteps s) k t s := by
  simp [runCpu, h]

theorem runCpu_busy {s : State} {c : Cur} (h : s.cur = some c) (hc : c.op ≠ op) : runCpu op body s = s := by
  simp [runCpu, h, hc]

/-- Two turns of the CPU agent, the first of which leaves the operation in progress and the second of which is not refused,
end as one turn of both bounds, but for the bound itself. -/
theorem runCpu_add (hb : body.Blind) {s s1 s2 : State} {a b : Nat} (hs1 : runCpu op body (s.withBurst (some a)) = s1)
    (hcur : s1.cur.isSome = true) (hr1 : s1.refused = false) (hs2 : runCpu op body (s1.withBurst (some b)) = s2)
    (hr2 : s2.refused = false) :
    runCpu op body (s.withBurst (some (a + b))) = s2.withBurst (some (a + b)) := by
  have run k t (hrun : ∀ n, runCpu op body (s.withBurst (some n)) = runSteps op body n k t (s.withBurst (some n))) :
      runCpu op body (s.withBurst (some (a + b))) = s2.withBurst (some (a + b)) := by
    rw [hrun] at hs1 ⊢
    obtain ⟨k', t', x, hplace, hcut⟩ := runSteps_add hb a b k t _ (hs1 ▸ hcur) (hs1 ▸ hr1)
    rw [hs1] at hplace hcut
    have hsecond : runSteps op body b k' t' (s1.withBurst (some b)) = s2 :=
      (runCpu_inProgress (s := s1.withBurst (some b)) hplace).symm.trans hs2
    have hbound : s2 = (runSteps op body b k' t' s1).withBurst (some b) :=
      (hsecond ▸ runSteps_withBurst (op := op) hb b k' t' s1 (some b)).eq_of_not_refused hr2
    rw [hbound] at hr2 ⊢
    have hjoined : runSteps op body b k' t' s1 = _ := hcut.eq_of_not_refused hr2
    have hone := runSteps_withBurst (op := op) hb (a + b) k t (s.withBurst (some a)) (some (a + b))
    rw [hjoined] at hr2 ⊢
    exact hone.resolve_right fun hr => Bool.false_ne_true (hr2.symm.trans hr.1)
  cases hc : s.cur with
  | none => exact run 0 0 fun n => runCpu_idle hc
  | some c =>
    by_cases hop : c.op = op
    · subst hop
      exact run c.k c.tmp fun n => runCpu_inProgress hc
    · have busy (u : State) (hu : u.cur = some c) : runCpu op body u = u := runCpu_busy hu hop
      obtain rfl : s.withBurst (some a) = s1 := (busy (s.withBurst (some a)) hc).symm.trans hs1
      obtain rfl : s.withBurst (some b) = s2 := (busy (s.withBurst (some b)) hc).symm.trans hs2
      exact busy _ hc

end

/-- A host operation of a run that is not refused: it is refused once a fault is recorded, and else the CPU agent's turn. -/
theorem runHost_unrefused {op : Instr} {body : Body} {s : State} (h : s.refused = false) :
    runHost op body s = .next (if s.fault.isSome then refuse .halted s else runCpu op body s) := by
  cases hf : s.fault <;> simp [runHost, h, hf]

/-- Settles O60, by cutting the run in two (`runCpu_add`). Were a fault recorded between the two turns, the second one would
be refused, and the claim says nothing of it. -/
theorem turnsCompose : Obligations.TurnsCompose := by
  intro s s1 i a b hi ⟨hrefused, hfault⟩ h hcur hr1
  have hexec u (hu : u.refused = false) := (exec_eq_runHost hi u).trans (runHost_unrefused hu)
  have hturn n : exec i (s.withBurst (some n)) = .next (runCpu i (cpuBody i) (s.withBurst (some n))) := by
    rw [hexec (s.withBurst (some n)) hrefused, withBurst_fault, hfault]
    rfl
  rw [hturn, Host.Outcome.next.injEq] at h
  refine ⟨_, hexec _ hr1, fun hr2 => ?_⟩
  rw [hturn]
  split at hr2
  · exact absurd hr2 Bool.true_eq_false.mp
  · next hf =>
    rw [if_neg hf, runCpu_add (cpuBody_blind hi) h hcur hr1 rfl hr2]

end Sys2Proof.Machine
end

section
/-! PROOF. The operation word, field by field (30_encoding R140, R141, R144, R145): a word is its four fields, each operand that
lies in one reads back, and a word that matches its row is put together again from its operands. -/

namespace Sys2Proof

variable {w : Word} {o : Op}

theorem eq_and_of_and_not_eq_zero {n : Nat} {x m : BitVec n} (h : x &&& ~~~m = 0) : x = x &&& m := by
  ext j hj
  have hbit := congrArg (·.getLsbD j) h
  simpa [hj] using hbit

theorem ofNat_val_toFin {n : Nat} (x : BitVec n) : BitVec.ofNat n x.toFin.val = x := by simp

/-- Where every element is found by its own code, a code finds exactly the element that has it. -/
theorem find?_code_eq_some_iff {α β : Type} [BEq β] [LawfulBEq β] {l : List α} {code : α → β} {b : β} {a : α}
    (hall : ∀ a, l.find? (fun x => code x == code a) = some a) :
    l.find? (fun x => code x == b) = some a ↔ code a = b := by
  constructor
  · intro h
    simpa using List.find?_some h
  · rintro rfl
    exact hall a

theorem Op.ofCode?_eq_some_iff {b : BitVec 6} : Op.ofCode? b = some o ↔ o.code = b :=
  find?_code_eq_some_iff ofCode_code

theorem Op.ofCode?_eq_none_iff {b : BitVec 6} : Op.ofCode? b = none ↔ ∀ o : Op, o.code ≠ b := by
  simp [Option.eq_none_iff_forall_ne_some, Op.ofCode?_eq_some_iff]

/-! ## The four fields -/

/-- The field IMM (R141). -/
def wordImm (w : Word) : BitVec 16 := w.extractLsb' 0 16

@[simp] theorem wordImm_mkWord (o : Op) (i : BitVec 4) (p : BitVec 6) (m : BitVec 16) : wordImm (mkWord o i p m) = m :=
  BitVec.extractLsb'_append_eq_right

theorem wordFields_append (w : Word) : wordOpc w ++ wordIdx w ++ wordPid w ++ wordImm w = w := by
  have happend {start₁ start₂ len₁ len₂ : Nat} (h : start₂ = start₁ + len₁) :=
    BitVec.extractLsb'_append_extractLsb'_eq_extractLsb' (len₂ := len₂) (x := w) h
  calc wordOpc w ++ wordIdx w ++ wordPid w ++ wordImm w
      = w.extractLsb' 22 10 ++ wordPid w ++ wordImm w := by rw [wordOpc, wordIdx, happend (by rfl)]
    _ = w.extractLsb' 16 16 ++ wordImm w := by rw [wordPid, happend (by rfl)]
    _ = w.extractLsb' 0 32 := happend rfl
    _ = w := BitVec.extractLsb'_eq_self

/-! ## The operands in IMM: each reads back from its own IMM, and is IMM with the other bits dropped -/

section
variable (o : Op) (i : BitVec 4) (p : BitVec 6)

@[simp] theorem wordByte_mkWord (b : Byte) : wordByte (mkWord o i p (byteImm b)) = b := by
  apply BitVec.eq_of_getLsbD_eq
  intro j hj
  rw [wordByte, BitVec.getLsbD_extractLsb', mkWord_getLsbD _ _ _ _ _ (by omega), byteImm, BitVec.getLsbD_append]
  simp [hj]

@[simp] theorem wordBit_mkWord (v : Bool) : wordBit (mkWord o i p (bitImm v)) = v := by
  rw [wordBit, mkWord_getLsbD _ _ _ _ _ (by decide)]
  cases v <;> rfl

@[simp] theorem wordKind_mkWord (v : Bool) : wordKind (mkWord o i p (kindImm v)) = v := by
  rw [wordKind, mkWord_getLsbD _ _ _ _ _ (by decide)]
  cases v <;> rfl

@[simp] theorem wordChan_mkWord (c : ChanIx) : wordChan (mkWord o i p (chanImm c)) = c := by
  have h : (mkWord o i p (chanImm c)).extractLsb' 0 4 = BitVec.ofNat 4 c.val := by
    apply BitVec.eq_of_getLsbD_eq
    intro j hj
    rw [BitVec.getLsbD_extractLsb', mkWord_getLsbD _ _ _ _ _ (by omega), chanImm, BitVec.getLsbD_append]
    simp [hj]
  rw [Fin.ext_iff, wordChan, h]
  exact Nat.mod_eq_of_lt c.isLt

@[simp] theorem wordLo_mkWord (hi lo : Fin 32) : wordLo (mkWord o i p (rangeImm hi lo)) = lo := by
  have h : (mkWord o i p (rangeImm hi lo)).extractLsb' 0 5 = BitVec.ofNat 5 lo.val := by
    apply BitVec.eq_of_getLsbD_eq
    intro j hj
    rw [BitVec.getLsbD_extractLsb', mkWord_getLsbD _ _ _ _ _ (by omega), rangeImm, BitVec.getLsbD_append]
    simp [hj]
  rw [Fin.ext_iff, wordLo, h]
  exact Nat.mod_eq_of_lt lo.isLt

@[simp] theorem wordHi_mkWord (hi lo : Fin 32) : wordHi (mkWord o i p (rangeImm hi lo)) = hi := by
  have h : (mkWord o i p (rangeImm hi lo)).extractLsb' 8 5 = BitVec.ofNat 5 hi.val := by
    apply BitVec.eq_of_getLsbD_eq
    intro j hj
    rw [BitVec.getLsbD_extractLsb', mkWord_getLsbD _ _ _ _ _ (by omega), rangeImm]
    simp only [BitVec.getLsbD_append]
    interval_cases j <;> simp
  rw [Fin.ext_iff, wordHi, h]
  exact Nat.mod_eq_of_lt hi.isLt

end

theorem byteImm_wordByte (w : Word) : byteImm (wordByte w) = wordImm w &&& 0xFF#16 := by
  apply BitVec.eq_of_getLsbD_eq
  intro j hj
  simp only [byteImm, wordByte, wordImm, BitVec.getLsbD_append, BitVec.getLsbD_and, BitVec.getLsbD_extractLsb']
  interval_cases j <;> simp

theorem bitImm_wordBit (w : Word) : bitImm (wordBit w) = wordImm w &&& 1#16 := by
  apply BitVec.eq_of_getLsbD_eq
  intro j hj
  simp only [bitImm, wordBit, wordImm, BitVec.getLsbD_append, BitVec.getLsbD_and, BitVec.getLsbD_extractLsb',
    BitVec.getLsbD_ofBool]
  interval_cases j <;> simp

theorem kindImm_wordKind (w : Word) : kindImm (wordKind w) = wordImm w &&& 0x100#16 := by
  apply BitVec.eq_of_getLsbD_eq
  intro j hj
  simp only [kindImm, wordKind, wordImm, BitVec.getLsbD_append, BitVec.getLsbD_and, BitVec.getLsbD_extractLsb',
    BitVec.getLsbD_ofBool]
  interval_cases j <;> simp

theorem chanImm_wordChan (w : Word) : chanImm (wordChan w) = wordImm w &&& 0xF#16 := by
  have hchan : BitVec.ofNat 4 (wordChan w).val = w.extractLsb' 0 4 := ofNat_val_toFin _
  apply BitVec.eq_of_getLsbD_eq
  intro j hj
  simp only [chanImm, hchan, wordImm, BitVec.getLsbD_append, BitVec.getLsbD_and, BitVec.getLsbD_extractLsb']
  interval_cases j <;> simp

theorem rangeImm_wordHi_wordLo (w : Word) : rangeImm (wordHi w) (wordLo w) = wordImm w &&& 0x1F1F#16 := by
  have hhi : BitVec.ofNat 5 (wordHi w).val = w.extractLsb' 8 5 := ofNat_val_toFin _
  have hlo : BitVec.ofNat 5 (wordLo w).val = w.extractLsb' 0 5 := ofNat_val_toFin _
  apply BitVec.eq_of_getLsbD_eq
  intro j hj
  simp only [rangeImm, hhi, hlo, wordImm, BitVec.getLsbD_append, BitVec.getLsbD_and, BitVec.getLsbD_extractLsb']
  interval_cases j <;> simp

/-! ## The rows -/

theorem matchWord_eq_mkWord (o : Op) : o.matchWord = mkWord o 0 0 0 := matchWord_eq o

theorem wordOpc_maskWord (o : Op) : wordOpc o.maskWord = BitVec.allOnes 6 := by cases o <;> rfl

/-- A word that matches a row has the row's opcode, since no row leaves a bit of OPC unmasked. -/
theorem wordOpc_of_row (hrow : w &&& o.maskWord = o.matchWord) : o.code = wordOpc w :=
  calc o.code = wordOpc (w &&& o.maskWord) := by rw [hrow, matchWord_eq_mkWord, wordOpc_mkWord]
    _ = wordOpc w &&& wordOpc o.maskWord := BitVec.extractLsb'_and
    _ = wordOpc w := by rw [wordOpc_maskWord, BitVec.and_allOnes]

/-- A word is an operation's exactly when it passes the check of the operation's row (R144). -/
theorem decodeOp_eq_ok_iff : decodeOp w = .ok o ↔ w &&& o.maskWord = o.matchWord := by
  constructor
  · intro h
    unfold decodeOp at h
    split at h
    · exact absurd h nofun
    · split at h
      · next hrow =>
        cases h
        exact hrow
      · exact absurd h nofun
  · intro hrow
    simp [decodeOp, Op.ofCode?_eq_some_iff.2 (wordOpc_of_row hrow), hrow]

section
variable (hw : decodeOp w = .ok o)
include hw

/-- A word that matches its row, put together again from what its fields are. -/
theorem mkWord_eq {i : BitVec 4} {p : BitVec 6} {m : BitVec 16} (hi : wordIdx w = i) (hp : wordPid w = p)
    (hm : wordImm w = m) : mkWord o i p m = w := by
  rw [mkWord, wordOpc_of_row (decodeOp_eq_ok_iff.1 hw), ← hi, ← hp, ← hm, wordFields_append]

theorem wordFields_masked :
    wordIdx w &&& wordIdx o.maskWord = 0 ∧ wordPid w &&& wordPid o.maskWord = 0 ∧
      wordImm w &&& wordImm o.maskWord = 0 := by
  have hrow := decodeOp_eq_ok_iff.1 hw
  rw [matchWord_eq_mkWord] at hrow
  refine ⟨?_, ?_, ?_⟩
  · rw [← wordIdx_mkWord o 0 0 0, ← hrow]
    exact BitVec.extractLsb'_and.symm
  · rw [← wordPid_mkWord o 0 0 0, ← hrow]
    exact BitVec.extractLsb'_and.symm
  · rw [← wordImm_mkWord o 0 0 0, ← hrow]
    exact BitVec.extractLsb'_and.symm

theorem wordIdx_eq_zero (hmask : wordIdx o.maskWord = ~~~0#4) : wordIdx w = 0#4 := by
  obtain ⟨h, _, _⟩ := wordFields_masked hw
  rw [hmask] at h
  rw [eq_and_of_and_not_eq_zero h, BitVec.and_zero]

theorem wordPid_eq_zero (hmask : wordPid o.maskWord = ~~~0#6) : wordPid w = 0#6 := by
  obtain ⟨_, h, _⟩ := wordFields_masked hw
  rw [hmask] at h
  rw [eq_and_of_and_not_eq_zero h, BitVec.and_zero]

/-- IMM is the part of it that the row does not mask. -/
theorem wordImm_eq {m imm : BitVec 16} (himm : imm = wordImm w &&& m) (hmask : wordImm o.maskWord = ~~~m) :
    wordImm w = imm := by
  obtain ⟨_, _, h⟩ := wordFields_masked hw
  rw [hmask] at h
  rw [himm, ← eq_and_of_and_not_eq_zero h]

theorem wordImm_eq_zero (hmask : wordImm o.maskWord = ~~~0#16) : wordImm w = 0#16 :=
  wordImm_eq hw BitVec.and_zero.symm hmask

end

end Sys2Proof
end

section
/-! PROOF. The readers of operands (30_encoding R142, R143): what each field reader accepts and what it refuses, and that each
reader of side operands accepts exactly the encodings of the well-formed values (`Reads`). -/

namespace Sys2Proof

variable {w : Word} {c : ChanIx} {e : SerIx} {p : Pid}

/-! ## Word fields -/

theorem Pid.ofCode?_eq_some_iff {n : Nat} : Pid.ofCode? n = some p ↔ p.code = n :=
  find?_code_eq_some_iff fun p => by cases p <;> rfl

theorem Pid.ofCode?_eq_none_iff {n : Nat} : Pid.ofCode? n = none ↔ ∀ p : Pid, p.code ≠ n := by
  simp [Option.eq_none_iff_forall_ne_some, Pid.ofCode?_eq_some_iff]

theorem Pid.code_lt (p : Pid) : p.code < 64 := by cases p <;> decide

theorem fieldChan_eq_iff : fieldChan w = c ↔ wordIdx w = chanBits c := by
  have hval : (fieldChan w).val = (wordIdx w).toNat := rfl
  rw [Fin.ext_iff, hval, BitVec.toNat_eq, chanBits, BitVec.toNat_ofNat, Nat.mod_eq_of_lt c.isLt]

theorem fieldSer_eq_ok_iff : fieldSer w = .ok e ↔ wordIdx w = serBits e := by
  have hbits : (serBits e).toNat = e.val := Nat.mod_eq_of_lt (e.isLt.trans (by decide))
  rw [BitVec.toNat_eq, hbits]
  unfold fieldSer
  split
  · simp [Fin.ext_iff]
  · next h => exact ⟨nofun, fun heq => absurd (heq ▸ e.isLt) h⟩

theorem fieldSer_eq_error (h : Config.nSer ≤ (wordIdx w).toNat) : fieldSer w = .error .indexOutOfRange :=
  dif_neg (Nat.not_lt.2 h)

theorem fieldSer_eq_ok (h : (wordIdx w).toNat < Config.nSer) : fieldSer w = .ok ⟨(wordIdx w).toNat, h⟩ :=
  dif_pos h

theorem fieldPid_eq_ok_iff : fieldPid w = .ok p ↔ wordPid w = pidBits p := by
  have hbits : (pidBits p).toNat = p.code := Nat.mod_eq_of_lt p.code_lt
  rw [BitVec.toNat_eq, hbits, eq_comm (b := p.code), ← Pid.ofCode?_eq_some_iff]
  unfold fieldPid
  split <;> simp [*]

theorem fieldPid_eq_error (h : ∀ p : Pid, p.code ≠ (wordPid w).toNat) : fieldPid w = .error .reservedEncoding := by
  simp [fieldPid, Pid.ofCode?_eq_none_iff.2 h]

theorem fieldLine_eq_ok_dma_iff : fieldLine w = .ok (.dma c) ↔ wordKind w = false ∧ wordIdx w = chanBits c := by
  unfold fieldLine
  cases wordKind w with
  | false => simp [fieldChan_eq_iff]
  | true => cases fieldSer w <;> simp [Except.map]

theorem fieldLine_eq_ok_ser_iff : fieldLine w = .ok (.ser e) ↔ wordKind w = true ∧ wordIdx w = serBits e := by
  rw [← fieldSer_eq_ok_iff]
  unfold fieldLine
  cases wordKind w with
  | false => simp
  | true => cases fieldSer w <;> simp [Except.map]

theorem fieldLine_eq_error (hkind : wordKind w = true) (h : Config.nSer ≤ (wordIdx w).toNat) :
    fieldLine w = .error .indexOutOfRange := by
  simp [fieldLine, hkind, fieldSer_eq_error h, Except.map]

theorem fieldRange_eq_ok_iff {r : Fin 32 × Fin 32} :
    fieldRange w = .ok r ↔ (wordHi w, wordLo w) = r ∧ wordLo w ≤ wordHi w := by
  unfold fieldRange
  split <;> simp [*]

theorem fieldRange_eq_error (h : wordHi w < wordLo w) : fieldRange w = .error .reservedEncoding :=
  if_neg (not_le.2 h)

section
variable (o : Op) (i : BitVec 4) (m : BitVec 16)

@[simp] theorem fieldChan_mkWord (c : ChanIx) (q : BitVec 6) : fieldChan (mkWord o (chanBits c) q m) = c :=
  fieldChan_eq_iff.2 (wordIdx_mkWord o _ q m)

@[simp] theorem fieldSer_mkWord (e : SerIx) (q : BitVec 6) : fieldSer (mkWord o (serBits e) q m) = .ok e :=
  fieldSer_eq_ok_iff.2 (wordIdx_mkWord o _ q m)

@[simp] theorem fieldPid_mkWord (p : Pid) : fieldPid (mkWord o i (pidBits p) m) = .ok p :=
  fieldPid_eq_ok_iff.2 (wordPid_mkWord o i _ m)

@[simp] theorem fieldLine_mkWord_dma (c : ChanIx) (q : BitVec 6) :
    fieldLine (mkWord o (chanBits c) q (kindImm false)) = .ok (.dma c) :=
  fieldLine_eq_ok_dma_iff.2 ⟨wordKind_mkWord o _ q false, wordIdx_mkWord o _ q _⟩

@[simp] theorem fieldLine_mkWord_ser (e : SerIx) (q : BitVec 6) :
    fieldLine (mkWord o (serBits e) q (kindImm true)) = .ok (.ser e) :=
  fieldLine_eq_ok_ser_iff.2 ⟨wordKind_mkWord o _ q true, wordIdx_mkWord o _ q _⟩

theorem fieldRange_mkWord {hi lo : Fin 32} (q : BitVec 6) (h : lo ≤ hi) :
    fieldRange (mkWord o i q (rangeImm hi lo)) = .ok (hi, lo) := by
  simp [fieldRange_eq_ok_iff, h]

end

/-! ## Side operands -/

/-- A reader accepts exactly the encodings of the well-formed values, and leaves the words after one. -/
def Reads {α : Type} (r : Side α) (enc : α → List Word) (wf : α → Bool) : Prop :=
  ∀ ws a rest, r ws = .ok (a, rest) ↔ wf a = true ∧ enc a ++ rest = ws

theorem Reads.encoded {α : Type} {r : Side α} {enc : α → List Word} {wf : α → Bool} (h : Reads r enc wf) {a : α}
    (ha : wf a = true) (rest : List Word) : r (enc a ++ rest) = .ok (a, rest) :=
  (h _ _ _).2 ⟨ha, rfl⟩

@[simp] theorem sideWord_cons (w : Word) (ws : List Word) : sideWord (w :: ws) = .ok (w, ws) := rfl

theorem sideWord_reads : Reads sideWord (fun w => [w]) (fun _ => true) := by
  intro ws a rest
  cases ws <;> simp [sideWord, eq_comm]

/-- A capacity is its low and its high word. -/
theorem encBuf_words (i a lo hi : Word) : encBuf ⟨i.toNat, a, lo.toNat + 2 ^ 32 * hi.toNat⟩ = [i, a, lo, hi] := by
  have hlo := lo.isLt
  have hhigh : (lo.toNat + 2 ^ 32 * hi.toNat) / 2 ^ 32 = hi.toNat := by omega
  have hlow : BitVec.ofNat 32 (lo.toNat + 2 ^ 32 * hi.toNat) = lo := by
    apply BitVec.eq_of_toNat_eq
    rw [BitVec.toNat_ofNat]
    omega
  simp only [encBuf, hhigh, hlow, BitVec.ofNat_toNat, BitVec.setWidth_eq]

theorem sideBuf_reads : Reads sideBuf encBuf Buf.wf := by
  intro ws b rest
  constructor
  · fun_cases sideBuf ws with
    | case1 i a lo hi ws read hwf =>
      intro h
      obtain ⟨hread, rfl⟩ := Prod.mk.inj (Except.ok.inj h)
      rw [← hread]
      exact ⟨hwf, congrArg (· ++ ws) (encBuf_words i a lo hi)⟩
    | case2 | case3 => exact nofun
  · rintro ⟨hwf, rfl⟩
    obtain ⟨id, addr, cap⟩ := b
    obtain ⟨hcap, hid⟩ : addr.toNat + cap ≤ 2 ^ 32 ∧ id < 2 ^ 32 := by simpa [Buf.wf] using hwf
    have hword : (BitVec.ofNat 32 id).toNat = id := Nat.mod_eq_of_lt hid
    have hwords : (BitVec.ofNat 32 cap).toNat + 2 ^ 32 * (BitVec.ofNat 32 (cap / 2 ^ 32)).toNat = cap := by
      simp only [BitVec.toNat_ofNat]
      omega
    simp only [encBuf, List.cons_append, List.nil_append, sideBuf, hword, hwords, hwf, if_true]

theorem sideOptBuf_reads : Reads sideOptBuf encOptBuf (·.all Buf.wf) := by
  intro ws r rest
  constructor
  · fun_cases sideOptBuf ws with
    | case2 ws =>
      rintro ⟨⟩
      exact ⟨rfl, rfl⟩
    | case3 ws b ws' hb =>
      rintro ⟨⟩
      obtain ⟨hwf, rfl⟩ := (sideBuf_reads _ _ _).1 hb
      exact ⟨hwf, rfl⟩
    | case1 | case4 | case5 => exact nofun
  · rintro ⟨hwf, rfl⟩
    cases r with
    | none => rfl
    | some b => simp [encOptBuf, sideOptBuf, sideBuf_reads.encoded hwf]

theorem sideDmaClient_reads : Reads sideDmaClient encDmaClient (·.all DmaClient.wf) := by
  intro ws r rest
  constructor
  · fun_cases sideDmaClient ws with
    | case2 ws =>
      rintro ⟨⟩
      exact ⟨rfl, rfl⟩
    | case4 k ws hk =>
      rintro ⟨⟩
      exact ⟨rfl, by simp [encDmaClient]⟩
    | case6 k ws =>
      rintro ⟨⟩
      exact ⟨decide_eq_true k.isLt, by simp [encDmaClient]⟩
    | case1 | case3 | case5 | case7 => exact nofun
  · rintro ⟨hwf, rfl⟩
    match r with
    | none => rfl
    | some (.serEngine e) =>
      have hword : (BitVec.ofNat 32 e.val).toNat = e.val := Nat.mod_eq_of_lt (e.isLt.trans (by decide))
      simp [encDmaClient, sideDmaClient, hword]
    | some (.ext k) =>
      have hword : (BitVec.ofNat 32 k).toNat = k := Nat.mod_eq_of_lt (of_decide_eq_true hwf)
      simp [encDmaClient, sideDmaClient, hword]

theorem sideSerClient_reads : Reads sideSerClient encSerClient SerClient.wf := by
  intro ws client rest
  constructor
  · fun_cases sideSerClient ws with
    | case2 ws =>
      rintro ⟨⟩
      exact ⟨rfl, rfl⟩
    | case4 k ws | case5 k ws =>
      rintro ⟨⟩
      exact ⟨decide_eq_true k.isLt, by simp [encSerClient]⟩
    | case1 | case3 | case6 => exact nofun
  · rintro ⟨hwf, rfl⟩
    cases client with
    | noClient => rfl
    | uartClient k | spiClient k =>
      have hword : (BitVec.ofNat 32 k).toNat = k := Nat.mod_eq_of_lt (of_decide_eq_true hwf)
      simp [encSerClient, sideSerClient, hword]

theorem DataBits.ofCode?_eq_some_iff {b : BitVec 8} {d : DataBits} : DataBits.ofCode? b = some d ↔ d.code = b :=
  find?_code_eq_some_iff fun d => by cases d <;> rfl

theorem Parity.ofCode?_eq_some_iff {b : BitVec 8} {p : Parity} : Parity.ofCode? b = some p ↔ p.code = b :=
  find?_code_eq_some_iff fun p => by cases p <;> rfl

theorem StopBits.ofCode?_eq_some_iff {b : BitVec 8} {t : StopBits} : StopBits.ofCode? b = some t ↔ t.code = b :=
  find?_code_eq_some_iff fun t => by cases t <;> rfl

/-- Four bytes make a word exactly when they are its bytes. -/
theorem append_bytes_eq_iff {a b c d : BitVec 8} {f : Word} :
    a ++ b ++ c ++ d = f ↔
      a = f.extractLsb' 24 8 ∧ b = f.extractLsb' 16 8 ∧ c = f.extractLsb' 8 8 ∧ d = f.extractLsb' 0 8 := by
  constructor
  · rintro rfl
    have hdrop {n k : Nat} (x : BitVec n) (y : BitVec 8) (hk : 8 ≤ k) :
        (x ++ y).extractLsb' k 8 = x.extractLsb' (k - 8) 8 := BitVec.extractLsb'_append_eq_of_le hk
    refine ⟨?_, ?_, ?_, BitVec.extractLsb'_append_eq_right.symm⟩
    · exact ((hdrop _ d (by decide)).trans ((hdrop _ c (by decide)).trans BitVec.extractLsb'_append_eq_left)).symm
    · exact ((hdrop _ d (by decide)).trans ((hdrop _ c (by decide)).trans BitVec.extractLsb'_append_eq_right)).symm
    · exact ((hdrop _ d (by decide)).trans BitVec.extractLsb'_append_eq_right).symm
  · rintro ⟨rfl, rfl, rfl, rfl⟩
    have happend {start₁ start₂ len₁ len₂ : Nat} (h : start₂ = start₁ + len₁) :=
      BitVec.extractLsb'_append_extractLsb'_eq_extractLsb' (len₂ := len₂) (x := f) h
    rw [happend (by rfl), happend (by rfl), happend (by rfl), BitVec.extractLsb'_eq_self]

theorem sideParams_reads : Reads sideParams encParams (fun _ => true) := by
  intro ws p rest
  constructor
  · fun_cases sideParams ws with
    | case1 baud f ws d q t ht hq hd hz =>
      rintro ⟨⟩
      have hword := append_bytes_eq_iff.2 ⟨hz.symm, StopBits.ofCode?_eq_some_iff.1 ht, Parity.ofCode?_eq_some_iff.1 hq,
        DataBits.ofCode?_eq_some_iff.1 hd⟩
      exact ⟨rfl, by simp [encParams, hword]⟩
    | case2 | case3 | case4 => exact nofun
  · rintro ⟨-, rfl⟩
    obtain ⟨hz, ht, hq, hd⟩ :=
      append_bytes_eq_iff.1 (Eq.refl (0#8 ++ p.stopBits.code ++ p.parity.code ++ p.dataBits.code))
    simp [encParams, sideParams, ← hz, StopBits.ofCode?_eq_some_iff.2 ht, Parity.ofCode?_eq_some_iff.2 hq,
      DataBits.ofCode?_eq_some_iff.2 hd]

end Sys2Proof
end

section
/-! PROOF. The decoder and the encoder agree (30_encoding R141 to R145): a list of words decodes exactly when it is the
encoding of a well-formed instruction and the words after it (`decode_eq_ok_iff`). Each direction goes through the operations:
what the decoder reads of an operation's word is put together again field by field, and what the encoder writes reads back. -/

namespace Sys2Proof

variable {w : Word} {ws side rest : List Word} {o : Op} {i : Instr}

theorem except_bind_eq_ok_iff {ε α β : Type} {x : Except ε α} {f : α → Except ε β} {b : β} :
    (x >>= f) = .ok b ↔ ∃ a, x = .ok a ∧ f a = .ok b := by
  cases x with
  | error e => exact ⟨nofun, nofun⟩
  | ok a => exact ⟨fun h => ⟨a, rfl, h⟩, fun ⟨_, ha, h⟩ => by cases ha; exact h⟩

theorem except_ok_bind {ε α β : Type} (a : α) (f : α → Except ε β) : (Except.ok a >>= f) = f a := rfl

theorem except_error_bind {ε α β : Type} (r : ε) (f : α → Except ε β) : (Except.error r >>= f) = .error r := rfl

theorem decode_cons (hw : decodeOp w = .ok o) : decode (w :: ws) = decodeOperands o w ws := by
  simp [decode, hw]

theorem encodeRow (i : Instr) : Laws.EncodeRow.Statement i := by
  cases i <;>
    simp only [Laws.EncodeRow.regRead, Laws.EncodeRow.regWrite, Laws.EncodeRow.regFieldGet, Laws.EncodeRow.regFieldSet,
      Laws.EncodeRow.dmaEnable, Laws.EncodeRow.dmaDisable, Laws.EncodeRow.dmaProgram, Laws.EncodeRow.dmaStart,
      Laws.EncodeRow.dmaDoTransfer, Laws.EncodeRow.dmaAbort, Laws.EncodeRow.dmaHandleIrq, Laws.EncodeRow.dmaXferCount,
      Laws.EncodeRow.dmaSetClient, Laws.EncodeRow.serConfigureUart, Laws.EncodeRow.serSendByte,
      Laws.EncodeRow.serSendBytes, Laws.EncodeRow.serInitSpi, Laws.EncodeRow.serReadWriteBytes,
      Laws.EncodeRow.serHandleIrq, Laws.EncodeRow.serDmaDone, Laws.EncodeRow.serSetClient, Laws.EncodeRow.serAttachDma,
      Laws.EncodeRow.serEnableTx, Laws.EncodeRow.serDisableTx, Laws.EncodeRow.serEnableRx, Laws.EncodeRow.serDisableRx,
      Laws.EncodeRow.spiSetClock, Laws.EncodeRow.spiGetClock, Laws.EncodeRow.spiSetPhase, Laws.EncodeRow.spiGetPhase,
      Laws.EncodeRow.spiSetRate, Laws.EncodeRow.spiGetRate, Laws.EncodeRow.spiSetChipSelect,
      Laws.EncodeRow.spiGetChipSelect, Laws.EncodeRow.irqDispatch, Laws.EncodeRow.evDmaStep, Laws.EncodeRow.evSerLoad,
      Laws.EncodeRow.evSerShift, Laws.EncodeRow.evSerRxArrive, Laws.EncodeRow.evHardFault]

/-- The operands that an instruction's own encoding holds read back. -/
theorem decodeOperands_encode (hwf : WellFormed i) (h : encode i = w :: side) :
    decodeOperands i.op w (side ++ rest) = .ok (i, rest) := by
  cases i with
  | regFieldGet hi lo a | regFieldSet hi lo a v =>
    obtain ⟨rfl, rfl⟩ := List.cons.inj h
    simp [Instr.op, decodeOperands, except_ok_bind, fieldRange_mkWord _ _ _ (of_decide_eq_true hwf), pure, Except.pure]
  | dmaProgram _ _ b n | dmaDoTransfer _ _ b n | serSendBytes _ b n =>
    obtain ⟨rfl, rfl⟩ := List.cons.inj h
    simp [Instr.op, decodeOperands, except_ok_bind, sideBuf_reads.encoded hwf, pure, Except.pure]
  | serReadWriteBytes e b r n =>
    obtain ⟨rfl, rfl⟩ := List.cons.inj h
    obtain ⟨hb, hr⟩ := Bool.and_eq_true_iff.1 hwf
    simp [Instr.op, decodeOperands, except_ok_bind, sideBuf_reads.encoded hb, sideOptBuf_reads.encoded hr, pure,
      Except.pure]
  | dmaSetClient c k =>
    obtain ⟨rfl, rfl⟩ := List.cons.inj h
    simp [Instr.op, decodeOperands, except_ok_bind, sideDmaClient_reads.encoded hwf, pure, Except.pure]
  | serSetClient e k =>
    obtain ⟨rfl, rfl⟩ := List.cons.inj h
    simp [Instr.op, decodeOperands, except_ok_bind, sideSerClient_reads.encoded hwf, pure, Except.pure]
  | serConfigureUart e p =>
    obtain ⟨rfl, rfl⟩ := List.cons.inj h
    simp [Instr.op, decodeOperands, except_ok_bind, sideParams_reads.encoded rfl, pure, Except.pure]
  | irqDispatch l =>
    cases l <;> obtain ⟨rfl, rfl⟩ := List.cons.inj h <;>
      simp [Instr.op, decodeOperands, except_ok_bind, pure, Except.pure]
  | _ =>
    obtain ⟨rfl, rfl⟩ := List.cons.inj h
    simp [Instr.op, decodeOperands, except_ok_bind, pure, Except.pure]

/-- What the decoder reads of a word that matches its row is well formed and is the encoding of the words read. -/
theorem encode_of_decodeOperands (hw : decodeOp w = .ok o) (h : decodeOperands o w ws = .ok (i, rest)) :
    WellFormed i ∧ encode i ++ rest = w :: ws := by
  have hword {x y z l} (hx : wordIdx w = x) (hy : wordPid w = y) (hz : wordImm w = z) : mkWord o x y z :: l = w :: l :=
    congrArg (· :: l) (mkWord_eq hw hx hy hz)
  have hidx := wordIdx_eq_zero hw
  have hpid := wordPid_eq_zero hw
  have himm := wordImm_eq_zero hw
  have hchan : wordIdx w = chanBits (fieldChan w) := fieldChan_eq_iff.1 rfl
  cases o <;>
    simp only [decodeOperands, except_bind_eq_ok_iff, Prod.exists, pure, Except.pure, Except.ok.injEq, Prod.mk.injEq,
      true_and, fieldRange_eq_ok_iff, fieldSer_eq_ok_iff, fieldPid_eq_ok_iff, sideWord_reads _ _ _, sideBuf_reads _ _ _,
      sideOptBuf_reads _ _ _, sideDmaClient_reads _ _ _, sideSerClient_reads _ _ _, sideParams_reads _ _ _] at h
  case regRead =>
    obtain ⟨a, _, rfl, rfl, rfl⟩ := h
    exact ⟨rfl, hword (hidx rfl) (hpid rfl) (himm rfl)⟩
  case regWrite =>
    obtain ⟨a, _, rfl, v, _, rfl, rfl, rfl⟩ := h
    exact ⟨rfl, hword (hidx rfl) (hpid rfl) (himm rfl)⟩
  case regFieldGet =>
    obtain ⟨_, _, ⟨⟨rfl, rfl⟩, hle⟩, a, _, rfl, rfl, rfl⟩ := h
    exact ⟨decide_eq_true hle, hword (hidx rfl) (hpid rfl) (wordImm_eq hw (rangeImm_wordHi_wordLo w) rfl)⟩
  case regFieldSet =>
    obtain ⟨_, _, ⟨⟨rfl, rfl⟩, hle⟩, a, _, rfl, v, _, rfl, rfl, rfl⟩ := h
    exact ⟨decide_eq_true hle, hword (hidx rfl) (hpid rfl) (wordImm_eq hw (rangeImm_wordHi_wordLo w) rfl)⟩
  case dmaProgram | dmaDoTransfer =>
    obtain ⟨p, hp, b, _, ⟨hb, rfl⟩, n, _, rfl, rfl, rfl⟩ := h
    exact ⟨hb, hword hchan hp (himm rfl)⟩
  case dmaSetClient =>
    obtain ⟨k, _, ⟨hk, rfl⟩, rfl, rfl⟩ := h
    exact ⟨hk, hword hchan (hpid rfl) (himm rfl)⟩
  case evDmaStep =>
    obtain ⟨rfl, rfl⟩ := h
    exact ⟨rfl, hword hchan (hpid rfl) (wordImm_eq hw (byteImm_wordByte w) rfl)⟩
  case evHardFault =>
    obtain ⟨rfl, rfl⟩ := h
    exact ⟨rfl, hword (hidx rfl) (hpid rfl) (himm rfl)⟩
  case serConfigureUart =>
    obtain ⟨e, he, p, _, rfl, rfl, rfl⟩ := h
    exact ⟨rfl, hword he (hpid rfl) (himm rfl)⟩
  case serSendBytes =>
    obtain ⟨e, he, b, _, ⟨hb, rfl⟩, n, _, rfl, rfl, rfl⟩ := h
    exact ⟨hb, hword he (hpid rfl) (himm rfl)⟩
  case serReadWriteBytes =>
    obtain ⟨e, he, b, _, ⟨hb, rfl⟩, r, _, ⟨hr, rfl⟩, n, _, rfl, rfl, rfl⟩ := h
    refine ⟨Bool.and_eq_true_iff.2 ⟨hb, hr⟩, ?_⟩
    simp [encode, mkWord_eq hw he (hpid rfl) (himm rfl)]
  case serSetClient =>
    obtain ⟨e, he, k, _, ⟨hk, rfl⟩, rfl, rfl⟩ := h
    exact ⟨hk, hword he (hpid rfl) (himm rfl)⟩
  case serDmaDone =>
    obtain ⟨e, he, p, hp, rfl, rfl⟩ := h
    exact ⟨rfl, hword he hp (himm rfl)⟩
  case serAttachDma =>
    obtain ⟨e, he, p, hp, rfl, rfl⟩ := h
    exact ⟨rfl, hword he hp (wordImm_eq hw (chanImm_wordChan w) rfl)⟩
  case spiSetRate =>
    obtain ⟨e, he, v, _, rfl, rfl, rfl⟩ := h
    exact ⟨rfl, hword he (hpid rfl) (himm rfl)⟩
  case spiSetClock | spiSetPhase =>
    obtain ⟨e, he, rfl, rfl⟩ := h
    exact ⟨rfl, hword he (hpid rfl) (wordImm_eq hw (bitImm_wordBit w) rfl)⟩
  case serSendByte | spiSetChipSelect | evSerShift | evSerRxArrive =>
    obtain ⟨e, he, rfl, rfl⟩ := h
    exact ⟨rfl, hword he (hpid rfl) (wordImm_eq hw (byteImm_wordByte w) rfl)⟩
  case irqDispatch =>
    obtain ⟨l, hl, rfl, rfl⟩ := h
    have hkind := wordImm_eq hw (kindImm_wordKind w) rfl
    cases l with
    | dma c =>
      obtain ⟨hk, hc⟩ := fieldLine_eq_ok_dma_iff.1 hl
      exact ⟨rfl, hword hc (hpid rfl) (hk ▸ hkind)⟩
    | ser e =>
      obtain ⟨hk, he⟩ := fieldLine_eq_ok_ser_iff.1 hl
      exact ⟨rfl, hword he (hpid rfl) (hk ▸ hkind)⟩
  case dmaEnable | dmaDisable | dmaStart | dmaAbort | dmaHandleIrq | dmaXferCount =>
    obtain ⟨rfl, rfl⟩ := h
    exact ⟨rfl, hword hchan (hpid rfl) (himm rfl)⟩
  case serInitSpi | serHandleIrq | serEnableTx | serDisableTx | serEnableRx | serDisableRx | spiGetClock | spiGetPhase |
      spiGetRate | spiGetChipSelect | evSerLoad =>
    obtain ⟨e, he, rfl, rfl⟩ := h
    exact ⟨rfl, hword he (hpid rfl) (himm rfl)⟩

theorem decode_eq_ok_iff : decode ws = .ok (i, rest) ↔ WellFormed i ∧ encode i ++ rest = ws := by
  constructor
  · intro h
    match ws with
    | [] => exact absurd h nofun
    | w :: ws =>
      rw [decode] at h
      split at h
      · next hw => exact encode_of_decodeOperands hw h
      · exact absurd h nofun
  · rintro ⟨hi, rfl⟩
    obtain ⟨w, side, hencode, hrow⟩ := encodeRow i
    rw [hencode, List.cons_append, decode_cons (decodeOp_eq_ok_iff.2 hrow)]
    exact decodeOperands_encode hi hencode

/-- Settles O1: the encoding of a well-formed instruction is one of the lists that decode. -/
theorem decodeEncode : Obligations.DecodeEncode := fun _ _ hi => decode_eq_ok_iff.2 ⟨hi, rfl⟩

/-- Settles O2: a list that decodes is the encoding of a well-formed instruction. -/
theorem encodeDecode : Obligations.EncodeDecode := fun _ _ _ => decode_eq_ok_iff.1

/-- A table word with its operands in zeros gives an instruction as soon as its words begin with the instruction's
encoding. -/
theorem decodeTableWord_of_encode {n : Nat} (hi : WellFormed i) (h : encode i <+: paddedWords (n % 2 ^ 32)) :
    decodeTableWord 32 n = some i := by
  obtain ⟨rest, hrest⟩ := h
  simp only [decodeTableWord, decode_eq_ok_iff.2 ⟨hi, hrest⟩]

/-- Settles O6: each of the eleven lists of words begins with the encoding of its instruction. -/
theorem writtenWordsDecode : Obligations.WrittenWordsDecode := by
  refine ⟨?_, ?_, ?_, ?_, ?_, ?_, ?_, ?_, ?_, ?_, ?_⟩ <;> exact decodeTableWord_of_encode (by decide) (by decide)

end Sys2Proof
end

section
/-! PROOF. What the decoder refuses (30_encoding R143 to R145). -/

namespace Sys2Proof

variable {w : Word} {ws : List Word} {o : Op}

/-! ## Opcodes and reserved bits -/

/-- The list of reserved opcodes of R145 is what is left of the 64. -/
theorem mem_reserved_iff (b : BitVec 6) :
    b.toNat ∈ [0x00, 0x05, 0x06, 0x07, 0x11, 0x12, 0x13, 0x14, 0x15, 0x16, 0x17, 0x25, 0x26, 0x27, 0x35, 0x36, 0x37, 0x38,
      0x39, 0x3A, 0x3B, 0x3C, 0x3D, 0x3E] ↔ Op.ofCode? b = none := by
  revert b
  decide

theorem Op.code_inj {o o' : Op} (h : o.code = o'.code) : o = o' := by
  have h' := ofCode_code o
  rw [h, ofCode_code] at h'
  exact (Option.some.inj h').symm

theorem decode_of_no_row (h : ∀ o : Op, w &&& o.maskWord ≠ o.matchWord) : decode (w :: ws) = .error .reservedEncoding := by
  have hop : decodeOp w = .error .reservedEncoding := by
    unfold decodeOp
    split
    · rfl
    · next o _ => exact if_neg (h o)
  rw [decode, hop]

theorem matchWord_getLsbD_low {j : Nat} (hj : j < 26) : o.matchWord.getLsbD j = false := by
  rw [matchWord_eq]
  simp only [BitVec.getLsbD_append, BitVec.getLsbD_zero]
  split_ifs
  · rfl
  · rfl
  · rfl
  · omega

theorem wordOpc_append_low (w : Word) : wordOpc w ++ w.extractLsb' 0 26 = w :=
  (BitVec.extractLsb'_append_extractLsb'_eq_extractLsb' rfl).trans BitVec.extractLsb'_eq_self

/-- A word of a row's opcode matches the row exactly when none of its bits below OPC is masked. -/
theorem row_iff_low_bits (hcode : o.code = wordOpc w) :
    w &&& o.maskWord = o.matchWord ↔ ∀ j, j < 26 → o.maskWord.getLsbD j = true → w.getLsbD j = false := by
  constructor
  · intro hrow j hj hmask
    have hbit := congrArg (·.getLsbD j) hrow
    simpa [hmask, matchWord_getLsbD_low hj] using hbit
  · intro hlow
    have hopc : wordOpc (w &&& o.maskWord) = wordOpc o.matchWord :=
      calc wordOpc (w &&& o.maskWord) = wordOpc w &&& wordOpc o.maskWord := BitVec.extractLsb'_and
        _ = o.code := by rw [wordOpc_maskWord, BitVec.and_allOnes, hcode]
        _ = wordOpc o.matchWord := by rw [matchWord_eq_mkWord, wordOpc_mkWord]
    have hrest : (w &&& o.maskWord).extractLsb' 0 26 = o.matchWord.extractLsb' 0 26 := by
      apply BitVec.eq_of_getLsbD_eq
      intro j hj
      cases hmask : o.maskWord.getLsbD j with
      | false => simp [hj, hmask, matchWord_getLsbD_low hj]
      | true => simp [hj, hmask, matchWord_getLsbD_low hj, hlow j hj hmask]
    rw [← wordOpc_append_low (w &&& o.maskWord), hopc, hrest, wordOpc_append_low]

/-- Settles O3. The rows' opcodes differ, so that a word of one row's opcode that fails its check matches no row. -/
theorem reservedWordsRefused : Obligations.ReservedWordsRefused := by
  intro w ws
  refine ⟨(mem_reserved_iff _).trans Op.ofCode?_eq_none_iff, fun hfree => ?_, fun o hcode => ⟨?_, fun hrow => ?_⟩⟩
  · exact decode_of_no_row fun o hrow => hfree o (wordOpc_of_row hrow)
  · rw [ne_eq, row_iff_low_bits hcode]
    push Not
    simp only [ne_eq, Bool.not_eq_false]
  · refine decode_of_no_row fun o' hrow' => hrow ?_
    rwa [Op.code_inj (hcode.trans (wordOpc_of_row hrow').symm)]

/-- Settles O4: of each operation's operands, the field in question is read first, or after a field that is good. -/
theorem fieldChecks : Obligations.FieldChecks := by
  intro w ws o hw
  rw [decode_cons hw]
  refine ⟨fun ho hidx => ?_, ?_, fun ho hpid => ?_, fun ho hidx hpid => ?_, fun ho hlt => ?_⟩
  · cases o with
    | serConfigureUart | serSendByte | serSendBytes | serInitSpi | serReadWriteBytes | serHandleIrq | serDmaDone
    | serSetClient | serAttachDma | serEnableTx | serDisableTx | serEnableRx | serDisableRx | spiSetClock | spiGetClock
    | spiSetPhase | spiGetPhase | spiSetRate | spiGetRate | spiSetChipSelect | spiGetChipSelect | evSerLoad | evSerShift
    | evSerRxArrive =>
      rw [decodeOperands, fieldSer_eq_error hidx, except_error_bind]
    | _ => exact absurd ho (by decide)
  · rintro rfl hkind hidx
    rw [decodeOperands, fieldLine_eq_error hkind hidx, except_error_bind]
  · simp only [List.mem_cons, List.not_mem_nil, or_false] at ho
    obtain rfl | rfl := ho <;> rw [decodeOperands, fieldPid_eq_error hpid, except_error_bind]
  · simp only [List.mem_cons, List.not_mem_nil, or_false] at ho
    obtain rfl | rfl := ho <;>
      rw [decodeOperands, fieldSer_eq_ok hidx, except_ok_bind, fieldPid_eq_error hpid, except_error_bind]
  · simp only [List.mem_cons, List.not_mem_nil, or_false] at ho
    obtain rfl | rfl := ho <;> rw [decodeOperands, fieldRange_eq_error hlt, except_error_bind]

end Sys2Proof
end

section
/-! PROOF. What the host may issue (30_encoding R149). -/

namespace Sys2Proof.Machine

variable {s : State} {ws : List Word} {i : Instr} {tl : List Word} {r : RefuseReason}

theorem issue_of_decode_error (hd : decode ws = .error r) : issue ws s = .next (refuse r s) := by
  simp [issue, hd]

theorem issue_of_not_host (hd : decode ws = .ok (i, tl)) (hi : i.op.hostMayIssue = false) :
    issue ws s = .next (refuse .handlerEntryFromHost s) := by
  simp [issue, hd, hi]

/-- Settles O8. An idle machine's host turn is what `issue` makes of its words. -/
theorem hostIssueRefused : Obligations.HostIssueRefused := by
  refine ⟨fun o => by cases o <;> decide, fun s ws b rest hb hr hc hin => ?_⟩
  rw [step_eq_takeTurn hb hr, takeTurn_host_idle hin hc]
  exact ⟨fun _ _ => issue_of_not_host, fun _ => issue_of_decode_error⟩

end Sys2Proof.Machine
end

section
/-! PROOF. Programming a channel and starting it (41_dma_channel R186, R187, R191; 30_encoding R148). One equation for each
step of the program part, and the state that the first three steps and the last one leave. -/

namespace Sys2Proof.Machine

variable {s : State} {c : ChanIx} {pid : Pid} {buf : Buf} {len t : Word} {next : State → Micro} {op : Instr} {body : Body}

theorem chanWrite_tcr_ofNat (n : Nat) (x : Chan) :
    chanWrite .tcr (BitVec.ofNat 32 n) x = { x with tcr := BitVec.ofNat 16 n } := by
  have htcr : (BitVec.ofNat 32 n).extractLsb' 0 16 = BitVec.ofNat 16 n := by
    apply BitVec.eq_of_toNat_eq
    simp only [BitVec.extractLsb'_toNat, BitVec.toNat_ofNat, Nat.shiftRight_zero]
    omega
  exact congrArg (fun v => { x with tcr := v }) htcr

theorem chanWrite_ier_trc (x : Chan) : chanWrite .ier imrTrc x = { x with imr := x.imr ||| 0b010#3 } := rfl

theorem chanWrite_cr_ten (x : Chan) : chanWrite .cr crTen x = { x with ten := true } := rfl

/-- The state once channel `c` is programmed: the buffer's owner, the channel's registers and its slot (R186). -/
def State.programmed (s : State) (c : ChanIx) (pid : Pid) (buf : Buf) (len : Word) : State :=
  (setOwner buf (.chan c) s).setChan c { s.chan c with
    psr := selectorWord pid, mar := buf.addr, tcr := BitVec.ofNat 16 (clampLen len buf),
    imr := (s.chan c).imr ||| 0b010#3, slot := some buf }

section
variable (hgate : s.dmaGate = true)
include hgate

theorem programSteps_psr (howner : bufOwner s.bufs buf.id = .host) (hslot : (s.chan c).slot = none)
    (hlen : clampLen len buf ≤ maxTransfer) :
    programSteps c pid buf len next 0 t s =
      .go 1 0 ((setOwner buf (.chan c) s).setChan c { s.chan c with psr := selectorWord pid }) := by
  simp [programSteps, howner, hslot, Nat.not_lt.2 hlen, hgate, chanWrite]

theorem programSteps_mar :
    programSteps c pid buf len next 1 t s = .go 2 0 (s.setChan c { s.chan c with mar := buf.addr }) := by
  simp [programSteps, hgate, chanWrite]

theorem programSteps_tcr :
    programSteps c pid buf len next 2 t s =
      .go 3 0 (s.setChan c { s.chan c with tcr := BitVec.ofNat 16 (clampLen len buf) }) := by
  simp [programSteps, hgate, chanWrite_tcr_ofNat]

theorem programSteps_ier :
    programSteps c pid buf len next 3 t s =
      next (s.setChan c { s.chan c with imr := (s.chan c).imr ||| 0b010#3, slot := some buf }) := by
  simp [programSteps, hgate, chanWrite_ier_trc]

theorem startStep_eq (o : Op) :
    startStep o c s = .ret (emit (.ret o .unit) (s.setChan c { s.chan c with ten := true })) := by
  simp [startStep, hgate, chanWrite_cr_ten, retWith]

/-- The fifth step of DMA_DO_TRANSFER is the start part (R191). -/
theorem doTransferSteps_start (o : Op) :
    doTransferSteps o c pid buf len 4 t s =
      .ret (emit (.ret o .unit) (s.setChan c { s.chan c with ten := true })) :=
  startStep_eq hgate o

/-- An operation that begins by programming a channel comes to its fourth step, and that step goes on with `next` from the
programmed state. -/
theorem runSteps_program (howner : bufOwner s.bufs buf.id = .host) (hslot : (s.chan c).slot = none)
    (hlen : clampLen len buf ≤ maxTransfer)
    (hbody : ∀ k < 4, ∀ t s, body k t s = programSteps c pid buf len next k t s) (n : Nat) :
    ∃ u, runSteps op body (n + 3) 0 0 s = runSteps op body n 3 0 u ∧
      body 3 0 u = next (setCur (some ⟨op, 3, 0⟩) (s.programmed c pid buf len)) := by
  have h0 := (hbody 0 (by decide) 0 s).trans (programSteps_psr hgate howner hslot hlen)
  rw [runSteps_go _ h0, runSteps_go _ ((hbody 1 (by decide) _ _).trans (programSteps_mar (by simpa using hgate))),
    runSteps_go _ ((hbody 2 (by decide) _ _).trans (programSteps_tcr (by simpa using hgate)))]
  refine ⟨_, rfl, (hbody 3 (by decide) _ _).trans ((programSteps_ier (by simpa using hgate)).trans ?_)⟩
  simp [State.programmed]

end

/-- Settles O22: the program part, and then the start part from the programmed state. -/
theorem doTransferResult : Obligations.DoTransferResult := by
  intro s c pid buf len hs hgate howner hslot hlen
  have hbody : ∀ k < 4, ∀ t s, doTransferSteps .dmaDoTransfer c pid buf len k t s =
      programSteps c pid buf len (.go 4 0) k t s := fun k hk _ _ => if_neg (Nat.ne_of_lt hk)
  obtain ⟨u, hrun, hgo⟩ :=
    runSteps_program (op := .dmaDoTransfer c pid buf len) hgate howner hslot hlen hbody (maxSteps - 3)
  have ⟨_, _, hidle, _⟩ := hs
  have hgate' q : (setCur q (s.programmed c pid buf len)).dmaGate = true := hgate
  refine (runHost_ready hs).trans (congrArg _ (hrun.trans ?_))
  rw [maxSteps, runSteps_go _ hgo, setCur_setCur, runSteps_ret _ (doTransferSteps_start (hgate' _) _)]
  simp only [setCur_chan, setChan_setCur, emit_setCur, finish_setCur]
  rw [finish_of_idle]
  · simp [State.programmed, selectorWord, clampLen]
  · exact hidle

end Sys2Proof.Machine
end

section
/-! PROOF. The four register operations (40_register_access R170 to R173; 20_memory R95, R101): one equation for each field
operation, beside those of a read and a write, and the second write of a value. A write of any register but THR finds the
register as a first write of that value left it, and changes nothing. -/

namespace Sys2Proof.Machine

variable {s t : State} {a v : Word} {hi lo : Fin 32} {r : RegRef} {e : SerIx}

/-! ## What an access leaves for the next one -/

/-- No clock is switched by changes of registers. -/
theorem Minor.clocked_eq (h : Minor s t) (r : RegRef) : clocked t r = clocked s r := by
  cases r with
  | chan c q => exact h.dmaGate
  | ser e q => exact congrArg (·.2.2.2.2) (h.eng e)

/-- A register write leaves the bound of the turn: it commutes with setting that bound, here to the one it has. -/
theorem regWriteEffect_burst (r : RegRef) (v : Word) (s : State) :
    (regWriteEffect r v s).sched.burst = s.sched.burst :=
  congrArg (·.sched.burst) (regWriteEffect_withTurn s.cur s.sched.burst s r v)

theorem State.Ready.after_regWrite (hs : s.Ready) (r : RegRef) (v : Word) : (regWriteEffect r v s).Ready := by
  obtain ⟨hrefused, hfault, hidle, hburst⟩ := hs
  obtain ⟨hcur', hfault', hrefused', _⟩ := regWriteEffect_frame r v s
  exact ⟨hrefused'.trans hrefused, hfault'.trans hfault, hcur'.trans hidle,
    (regWriteEffect_burst r v s).trans hburst⟩

/-! ## The field operations -/

theorem exec_regFieldGet (hs : s.Ready) (hr : regAt a = some r) (hclk : clocked s r = true) :
    exec (.regFieldGet hi lo a) s =
      .next (emit (.ret .regFieldGet (.word (fieldGet (regValue r s) hi lo))) (regReadEffect r s)) := by
  have hstep : regFieldGetSteps hi lo a 0 0 s =
      .ret (emit (.ret .regFieldGet (.word (fieldGet (regValue r s) hi lo))) (regReadEffect r s)) := by
    rw [regFieldGetSteps, regRead_done hr hclk]
    rfl
  have ⟨_, _, hidle, _⟩ := hs
  have ⟨hcur, _⟩ := regReadEffect_frame r s
  refine (runHost_ready hs).trans (congrArg _ ?_)
  exact (runSteps_ret _ hstep).trans (finish_of_idle (hcur.trans hidle))

section
variable (o : Op) (hr : regAt a = some r)
include hr

theorem fieldSetSteps_read (hclk : clocked s r = true) (w : Word) :
    fieldSetSteps o a hi lo v 0 w s = .go 1 (regValue r s) (regReadEffect r s) := by
  rw [fieldSetSteps, regRead_done hr hclk, andThen_done]

theorem fieldSetSteps_write (hclk : clocked s r = true) (w : Word) :
    fieldSetSteps o a hi lo v 1 w s = .ret (emit (.ret o .unit) (regWriteEffect r (fieldPut w hi lo v) s)) := by
  rw [fieldSetSteps, regWrite_done hr hclk, andThen_done, retWith]

/-- The read and the write of FieldSet in one turn (R95): an operation whose steps are those of FieldSet ends with the
write of the value read, its bits replaced. -/
theorem runSteps_fieldSet (op : Instr) (n : Nat) (hidle : s.cur = none) (hclk : clocked s r = true) :
    runSteps op (fieldSetSteps o a hi lo v) (n + 2) 0 0 s =
      emit (.ret o .unit) (regWriteEffect r (fieldPut (regValue r s) hi lo v) (regReadEffect r s)) := by
  have hclk' p : clocked (setCur p (regReadEffect r s)) r = true := by
    rw [clocked_setCur, (regReadEffect_minor r s).clocked_eq, hclk]
  have ⟨hcurR, _⟩ := regReadEffect_frame r s
  have ⟨hcurW, _⟩ := regWriteEffect_frame r (fieldPut (regValue r s) hi lo v) (regReadEffect r s)
  rw [runSteps_go _ (fieldSetSteps_read o hr hclk 0), runSteps_ret _ (fieldSetSteps_write o hr (hclk' _) _),
    regWriteEffect_setCur, emit_setCur, finish_setCur]
  exact finish_of_idle (hcurW.trans (hcurR.trans hidle))

end

theorem exec_regFieldSet (hs : s.Ready) (hr : regAt a = some r) (hclk : clocked s r = true) :
    exec (.regFieldSet hi lo a v) s =
      .next (emit (.ret .regFieldSet .unit)
        (regWriteEffect r (fieldPut (regValue r s) hi lo v) (regReadEffect r s))) := by
  have ⟨_, _, hidle, _⟩ := hs
  exact (runHost_ready hs).trans (congrArg _ (runSteps_fieldSet _ hr _ _ hidle hclk))

/-! ## The second write of a value (R101) -/

theorem chanWrite_again (q : ChanReg) (v : Word) (x : Chan) : chanWrite q v (chanWrite q v x) = chanWrite q v x := by
  cases q with
  | mar | psr | tcr | mr | sr | imr | isr => rfl
  | cr =>
    have hten : ∀ dis en old : Bool,
        (if dis then false else if en then true else if dis then false else if en then true else old) =
          (if dis then false else if en then true else old) := by decide
    simp only [chanWrite, hten]
  | ier => simp [chanWrite, BitVec.or_assoc]
  | idr => simp [chanWrite, BitVec.and_assoc]

/-- A CR write that leaves the engine as it is moves no pin, and so changes nothing. -/
theorem crWrite_of_fixed (h : crEngine e v (s.eng e) = s.eng e) : crWrite e v s = s := by
  simp [crWrite, h]

/-- A write of a serial register other than THR changes nothing where the engine is as such a write left it. -/
theorem serWrite_again {q : SerReg} (hq : q ≠ .thr) (ht : t.eng e = (serWrite e q v s).eng e) :
    serWrite e q v t = t := by
  have keep {x : Ser} (hx : x = t.eng e) : t.setEng e x = t := by rw [hx, setEng_self]
  cases q with
  | thr => exact absurd rfl hq
  | imr | csr | rhr => rfl
  | cr =>
    have heng : t.eng e = crEngine e v (s.eng e) := by rw [ht, serWrite, crWrite_eq]; exact setEng_eng_same ..
    exact crWrite_of_fixed (by rw [heng, crEngine_again])
  | mr | brgr | ttgr =>
    refine keep ?_
    rw [ht, serWrite, setEng_eng_same]
  | ier =>
    refine keep ?_
    simp [ht, serWrite, BitVec.or_assoc]
  | idr =>
    refine keep ?_
    simp [ht, serWrite, BitVec.and_assoc]

/-- A second write of the same value to a register other than THR, after any event, changes nothing. -/
theorem regWriteEffect_again (hthr : ∀ e, r ≠ .ser e .thr) (ev : Event) :
    regWriteEffect r v (emit ev (regWriteEffect r v s)) = emit ev (regWriteEffect r v s) := by
  cases r with
  | chan c q =>
    have hchan : (emit ev (regWriteEffect (.chan c q) v s)).chan c = chanWrite q v (s.chan c) := setChan_chan_same ..
    rw [regWriteEffect, hchan, chanWrite_again, ← hchan, setChan_self]
  | ser e q => exact serWrite_again (fun hq => hthr e (hq ▸ rfl)) rfl

theorem exec_regWrite_again (hs : s.Ready) (hr : regAt a = some r) (hclk : clocked s r = true)
    (hthr : ∀ e, r ≠ .ser e .thr) (ev : Event) :
    exec (.regWrite a v) (emit ev (regWriteEffect r v s)) =
      .next (emit (.ret .regWrite .unit) (emit ev (regWriteEffect r v s))) := by
  have hclk' : clocked (emit ev (regWriteEffect r v s)) r = true :=
    (((regWriteEffect_minor r v s).trans (.emit ev _)).clocked_eq r).trans hclk
  have hready : (emit ev (regWriteEffect r v s)).Ready := hs.after_regWrite r v
  rw [exec_regWrite hready hr hclk', regWriteEffect_again hthr]

/-- Settles O11, by the equation of each operation; the second write meets the state that the first one left. -/
theorem registerOperations : Obligations.RegisterOperations := by
  intro s a v hi lo r hs hr hclk
  exact ⟨exec_regRead hs hr hclk, exec_regWrite hs hr hclk, exec_regFieldGet hs hr hclk, exec_regFieldSet hs hr hclk,
    fun hthr => ⟨_, exec_regWrite hs hr hclk, exec_regWrite_again hs hr hclk hthr _⟩⟩

end Sys2Proof.Machine
end

section
/-! PROOF. The channel manager's operations that access no register or one (41_dma_channel R180 to R184, R190, R196, R197;
43_serial_uart R268, R269). Each is complete at its first step; what that step does is all that the operation does. -/

namespace Sys2Proof.Machine

variable {i : Instr} {s s' : State} {c : ChanIx} {e : SerIx} {p : Pid}

/-- A host operation that its first step completes. -/
theorem exec_of_step_ret (hi : i.op.hostMayIssue = true) (hs : s.Ready) (hbody : cpuBody i 0 0 s = .ret s')
    (hcur : s'.cur = s.cur) : exec i s = .next s' := by
  have ⟨_, _, hidle, _⟩ := hs
  rw [exec_eq_runHost hi, runHost_ready hs, maxSteps, runSteps_ret _ hbody, finish_of_idle (hcur.trans hidle)]

/-- A host operation that its first step ends by a fault or a refusal. -/
theorem exec_of_step_stop (hi : i.op.hostMayIssue = true) (hs : s.Ready) (hbody : cpuBody i 0 0 s = .stop s') :
    exec i s = .next s' := by
  rw [exec_eq_runHost hi, runHost_ready hs, maxSteps, runSteps_stop _ hbody]

/-! ## Enabling and disabling a channel -/

theorem exec_dmaEnable (hs : s.Ready) :
    exec (.dmaEnable c) s = .next (emit (.ret .dmaEnable .unit) (switchChan c true s)) :=
  exec_of_step_ret rfl hs (dmaEnableSteps_zero c 0 s) rfl

theorem exec_dmaDisable (hs : s.Ready) :
    exec (.dmaDisable c) s = .next (emit (.ret .dmaDisable .unit) (switchChan c false s)) :=
  exec_of_step_ret rfl hs (dmaDisableSteps_zero c 0 s) rfl

theorem countAfter_on (c : ChanIx) (s : State) :
    countAfter c true s = if (s.chan c).enabled then s.dmaCount else s.dmaCount + 1 := rfl

theorem countAfter_off (c : ChanIx) (s : State) :
    countAfter c false s = if (s.chan c).enabled then s.dmaCount - 1 else s.dmaCount := by
  cases h : (s.chan c).enabled <;> simp [countAfter, h]

theorem gateAfter_on (c : ChanIx) (s : State) :
    gateAfter c true s = if (s.chan c).enabled = false ∧ s.dmaCount = 0 then true else s.dmaGate := by
  cases h : (s.chan c).enabled <;> simp [gateAfter, h]

theorem gateAfter_off (c : ChanIx) (s : State) :
    gateAfter c false s = if (s.chan c).enabled = true ∧ s.dmaCount - 1 = 0 then false else s.dmaGate := by
  cases h : (s.chan c).enabled <;> simp [gateAfter, h]

/-- Settles O19: each operation writes what `switchChan` writes, and emits its Ret. -/
theorem enableAndDisable : Obligations.EnableAndDisable := by
  intro s c hs
  rw [exec_dmaEnable hs, exec_dmaDisable hs, ← countAfter_on, ← countAfter_off, ← gateAfter_on, ← gateAfter_off]
  exact ⟨rfl, rfl⟩

/-- A channel switched on and then off, with an event between, is off; no other channel counts (R184). -/
theorem enabledCount_switchChan_on_off (c : ChanIx) (ev : Event) (s : State) :
    enabledCount (switchChan c false (emit ev (switchChan c true s))) + (if (s.chan c).enabled then 1 else 0) =
      enabledCount s := by
  have hup := enabledCount_switchChan c true s
  have hdown := enabledCount_switchChan c false (emit ev (switchChan c true s))
  have hevent : enabledCount (emit ev (switchChan c true s)) = enabledCount (switchChan c true s) := rfl
  rw [emit_chan, switchChan_enabled, if_pos rfl, hevent] at hdown
  simp only [if_true, Bool.false_eq_true, if_false] at hup hdown
  omega

/-- Settles O20. Both operations keep the invariant, which fixes the counter, the gate and the mask by which channels are
enabled. -/
theorem enableDisableNetZero : Obligations.EnableDisableNetZero := by
  intro s c hs hinv
  refine ⟨_, _, exec_dmaEnable hs, exec_dmaDisable hs, ?_⟩
  have hinv1 : ClockInv (emit (.ret .dmaEnable .unit) (switchChan c true s)) := hinv.switchChan c true
  obtain ⟨hcount2, hgate2, hmasked2⟩ := hinv1.switchChan c false
  obtain ⟨hcount, hgate, hmasked⟩ := hinv
  have hnet := enabledCount_switchChan_on_off c (.ret .dmaEnable .unit) s
  rw [← hcount2, ← hcount] at hnet
  have henabled2 := switchChan_enabled c c false (emit (.ret .dmaEnable .unit) (switchChan c true s))
  rw [if_pos rfl] at henabled2
  simp only [emit_dmaCount, emit_dmaGate, emit_dmaMasked, emit_chan]
  constructor
  · intro hoff
    have hsame := hnet
    rw [hoff, if_neg Bool.false_ne_true, Nat.add_zero] at hsame
    rw [hgate2, hgate, hmasked2, hmasked, henabled2, hoff, hsame]
    exact ⟨rfl, rfl, rfl, rfl⟩
  · intro hon
    rw [hon, if_pos rfl] at hnet
    exact ⟨henabled2, hnet⟩

/-! ## The start bit and the count -/

/-- The count is the whole of the field that TCR reads as (R44, R196). -/
theorem tcr_extract_zeroExtend (v : BitVec Config.tcrWidth) :
    (v.zeroExtend 32).extractLsb' 0 Config.tcrWidth = v := by
  rw [← BitVec.setWidth_eq_extractLsb' (by decide)]
  exact BitVec.setWidth_setWidth_of_le v (by decide)

/-- Settles O24: one write, which sets TEN, and one read, which has no effect. -/
theorem startAndCount : Obligations.StartAndCount := by
  intro s c hs hgate
  have hread : cpuBody (.dmaXferCount c) 0 0 s =
      .ret (emit (.ret .dmaXferCount (.word ((s.chan c).tcr.zeroExtend 32))) s) := by
    rw [cpuBody, dmaXferCountSteps, regRead_done (regAt_chanAddr c .tcr) hgate, andThen_done]
    simp only [regValue, chanRead?, Option.getD_some, tcr_extract_zeroExtend]
    rfl
  exact ⟨exec_of_step_ret rfl hs (startStep_eq hgate .dmaStart) rfl, exec_of_step_ret rfl hs hread rfl⟩

/-! ## Registration -/

/-- DMA_SET_CLIENT registers no client or a host's (R197). -/
theorem dmaSetClientSteps_set {client : Option DmaClient} (h : ∀ e, client ≠ some (.serEngine e)) (t : Word) :
    dmaSetClientSteps c client 0 t s =
      .ret (emit (.ret .dmaSetClient .unit) (s.setChan c { s.chan c with client := client })) :=
  match client, h with
  | none, _ => rfl
  | some (.ext _), _ => rfl
  | some (.serEngine e), h => absurd rfl (h e)

theorem serAttachDmaSteps_attach (h : (s.eng e).dma = none ∧ (s.chan c).client = none ∧ p.dir = .tx) (t : Word) :
    serAttachDmaSteps e p c 0 t s =
      .ret (emit (.ret .serAttachDma .unit)
        ((s.setEng e { s.eng e with dma := some (c, p) }).setChan c
          { s.chan c with client := some (.serEngine e) })) := by
  obtain ⟨hdma, hclient, hdir⟩ := h
  simp [serAttachDmaSteps, hdma, hclient, hdir, retWith]

theorem serAttachDmaSteps_refused (h : ¬ ((s.eng e).dma = none ∧ (s.chan c).client = none ∧ p.dir = .tx)) (t : Word) :
    serAttachDmaSteps e p c 0 t s = .stop (refuse .paramOutOfRange s) := by
  refine if_pos ?_
  rwa [← Option.not_isSome_iff_eq_none, ← Option.not_isSome_iff_eq_none, not_and_or, not_and_or, not_not, not_not] at h

/-- Settles O27: what each operation's first step returns or refuses. -/
theorem registration : Obligations.Registration := by
  intro s hs
  refine ⟨fun c k client hclient => ?_, fun c e => exec_of_step_stop rfl hs rfl,
    fun e client => exec_of_step_ret rfl hs rfl rfl, fun e p c => ⟨fun h => ?_, fun h => ?_⟩⟩
  · refine exec_of_step_ret rfl hs (dmaSetClientSteps_set (fun e => ?_) 0) rfl
    rintro rfl
    simp at hclient
  · exact exec_of_step_ret rfl hs (serAttachDmaSteps_attach h 0) rfl
  · exact exec_of_step_stop rfl hs (serAttachDmaSteps_refused h 0)

end Sys2Proof.Machine
end

section
/-! PROOF. What DMA_PROGRAM leaves, and the checks before its first write (41_dma_channel R186 to R188; 20_memory R93). The
checks belong to the first step of the program part, which DMA_DO_TRANSFER shares. -/

namespace Sys2Proof.Machine

variable {s : State} {c : ChanIx} {pid : Pid} {buf : Buf} {len t : Word} {next : State → Micro}

/-- Settles O21: the program part, whose last step returns. -/
theorem programResult : Obligations.ProgramResult := by
  intro s c pid buf len hs hgate howner hslot hlen
  obtain ⟨u, hrun, hret⟩ :=
    runSteps_program (op := .dmaProgram c pid buf len) (pid := pid) (next := retWith .dmaProgram .unit) hgate howner
      hslot hlen (fun _ _ _ _ => rfl) (maxSteps - 3)
  have ⟨_, _, hidle, _⟩ := hs
  refine (runHost_ready hs).trans (congrArg _ (hrun.trans ?_))
  rw [maxSteps, runSteps_ret _ hret, emit_setCur, finish_setCur]
  exact finish_of_idle hidle

/-- A buffer that is not the host's is refused before every other check (R186, R103). -/
theorem programSteps_not_host (howner : bufOwner s.bufs buf.id ≠ .host) :
    programSteps c pid buf len next 0 t s = .stop (refuse .bufferNotHostOwned s) := if_pos howner

section
variable (howner : bufOwner s.bufs buf.id = .host)
include howner

theorem programSteps_full {held : Buf} (hslot : (s.chan c).slot = some held) :
    programSteps c pid buf len next 0 t s = .stop (raise (.bufferOverwrite c held.id buf.id) s) := by
  simp [programSteps, howner, hslot]

theorem programSteps_too_long (hslot : (s.chan c).slot = none) (hlen : maxTransfer < clampLen len buf) :
    programSteps c pid buf len next 0 t s = .stop (raise (.lengthTooLarge c (clampLen len buf)) s) := by
  simp [programSteps, howner, hslot, hlen]

/-- At a gated block the owner has changed when the PSR write faults (R356, R351). -/
theorem programSteps_gated (hslot : (s.chan c).slot = none) (hlen : clampLen len buf ≤ maxTransfer)
    (hgate : s.dmaGate = false) :
    programSteps c pid buf len next 0 t s =
      .stop (raise (.clockGatedAccess (chanAddr c .psr)) (setOwner buf (.chan c) s)) := by
  simp [programSteps, howner, hslot, Nat.not_lt.2 hlen, hgate]

end

/-- Settles O23: the first step of both operations is that of the program part. -/
theorem programChecks : Obligations.ProgramChecks := by
  intro s c pid buf len hs i hi
  obtain ⟨hissue, next, hbody⟩ : i.op.hostMayIssue = true ∧
      ∃ next, cpuBody i 0 0 s = programSteps c pid buf len next 0 0 s := by
    simp only [List.mem_cons, List.not_mem_nil, or_false] at hi
    obtain rfl | rfl := hi
    · exact ⟨rfl, retWith .dmaProgram .unit, rfl⟩
    · exact ⟨rfl, .go 4 0, rfl⟩
  have stops {s' : State} (h : programSteps c pid buf len next 0 0 s = .stop s') : exec i s = .next s' :=
    exec_of_step_stop hissue hs (hbody.trans h)
  exact ⟨fun howner => stops (programSteps_not_host howner),
    fun howner held hslot => stops (programSteps_full howner hslot),
    fun howner hslot => ⟨fun hlen => stops (programSteps_too_long howner hslot hlen),
      fun hlen hgate => stops (programSteps_gated howner hslot hlen hgate)⟩⟩

end Sys2Proof.Machine
end

section
/-! PROOF. The DMA engine's step (41_dma_channel R200 to R202; 20_memory R96): when it is enabled, the three things it can
then do, and the byte it moves for each direction and kind of peripheral. -/

namespace Sys2Proof.Machine

variable {s : State} {c : ChanIx} {p : Pid} {e : SerIx} {n : PeriphName} {a : Word} {x0 : Byte}

/-! ## When the step is enabled -/

theorem dmaRequest_external (h : periphOf p = .external n) : dmaRequest p s = s.sched.extReq := by
  simp [dmaRequest, h]

theorem dmaRequest_engine_iff (h : periphOf p = .engine e) :
    dmaRequest p s = true ↔
      (s.eng e).clkOn = true ∧
        ((p.dir = .tx ∧ (s.eng e).txen = true ∧ (s.eng e).thrFull = false) ∨
          (p.dir = .rx ∧ (s.eng e).rxrdy = true)) := by
  cases hdir : p.dir <;> simp [dmaRequest, h, hdir, serTxrdy]

theorem dmaStepFor?_eq_some_iff :
    dmaStepFor? c s = some p ↔
      s.dmaGate = true ∧ (s.chan c).ten = true ∧ (s.chan c).tcr ≠ 0 ∧ decodeSelector (s.chan c).psr = some p ∧
        dmaRequest p s = true := by
  simp [dmaStepFor?, Option.filter_eq_some_iff, and_assoc]

/-- A step is not enabled when one of the channel's conditions fails, or the request of the identity it would serve. -/
theorem dmaStepFor?_eq_none
    (h : ∀ p, s.dmaGate = true → (s.chan c).ten = true → (s.chan c).tcr ≠ 0 →
      decodeSelector (s.chan c).psr = some p → dmaRequest p s ≠ true) : dmaStepFor? c s = none :=
  Option.eq_none_iff_forall_ne_some.2 fun p hp => by
    obtain ⟨hgate, hten, htcr, hsel, hreq⟩ := dmaStepFor?_eq_some_iff.1 hp
    exact h p hgate hten htcr hsel hreq

/-! ## What the step does -/

section
variable (hs : s.Running)
include hs

theorem exec_evDmaStep_not_enabled (h : dmaStepFor? c s = none) : exec (.evDmaStep c x0) s = .next s := by
  simp only [exec, execEvDmaStep, runAgent_running hs, h]

theorem exec_evDmaStep_unmodelled_mode (h : dmaStepFor? c s = some p) (hmr : (s.chan c).mr ≠ 0) :
    exec (.evDmaStep c x0) s = .next (refuse .unmodelledMode s) := by
  simp only [exec, execEvDmaStep, runAgent_running hs, h, if_pos hmr]

theorem exec_evDmaStep_move (h : dmaStepFor? c s = some p) (hmr : (s.chan c).mr = 0) :
    exec (.evDmaStep c x0) s = .next (dmaMove c p x0 s) := by
  simp only [exec, execEvDmaStep, runAgent_running hs, h, if_neg (not_not.2 hmr)]

end

/-- A channel after a byte has moved: MAR rises by one modulo `2^32`, TCR falls by one (R201). -/
def Chan.moved (x : Chan) : Chan := { x with mar := x.mar + 1, tcr := x.tcr - 1 }

theorem dmaMoveByte_chan (p : Pid) (a : Word) (x0 : Byte) (s : State) (c : ChanIx) :
    (dmaMoveByte p a x0 s).chan c = s.chan c := by
  unfold dmaMoveByte
  split <;> rfl

theorem dmaMove_of_owns (h : ownsAddr s.bufs (.chan c) (s.chan c).mar = true) :
    dmaMove c p x0 s = (dmaMoveByte p (s.chan c).mar x0 s).setChan c (s.chan c).moved := by
  unfold dmaMove
  simp only [h, if_true, dmaMoveByte_chan]
  rfl

theorem dmaMove_out_of_buffer (h : ownsAddr s.bufs (.chan c) (s.chan c).mar = false) :
    dmaMove c p x0 s = raise (.dmaOutOfBuffer (.chan c) (s.chan c).mar) s := by
  simp [dmaMove, h]

theorem dmaMoveByte_tx_external (hdir : p.dir = .tx) (h : periphOf p = .external n) :
    dmaMoveByte p a x0 s = emit (.periphTx p (memRead s.mem a.toNat)) s := by
  simp [dmaMoveByte, hdir, h]

theorem dmaMoveByte_tx_engine (hdir : p.dir = .tx) (h : periphOf p = .engine e) :
    dmaMoveByte p a x0 s = s.setEng e { s.eng e with thr := memRead s.mem a.toNat, thrFull := true } := by
  simp [dmaMoveByte, hdir, h]

theorem dmaMoveByte_rx_external (hdir : p.dir = .rx) (h : periphOf p = .external n) :
    dmaMoveByte p a x0 s = s.storeByte a x0 := by
  simp [dmaMoveByte, hdir, h, State.storeByte]

theorem dmaMoveByte_rx_engine (hdir : p.dir = .rx) (h : periphOf p = .engine e) :
    dmaMoveByte p a x0 s = (s.setEng e { s.eng e with rxrdy := false }).storeByte a (s.eng e).rhr := by
  simp [dmaMoveByte, hdir, h, State.storeByte]

/-- An enabled step in the modelled mode, at an address of the channel's, moves its byte. -/
theorem exec_evDmaStep_moves (hs : s.Running) (h : dmaStepFor? c s = some p) (hmr : (s.chan c).mr = 0)
    (howns : ownsAddr s.bufs (.chan c) (s.chan c).mar = true) :
    exec (.evDmaStep c x0) s = .next ((dmaMoveByte p (s.chan c).mar x0 s).setChan c (s.chan c).moved) := by
  rw [exec_evDmaStep_move hs h hmr, dmaMove_of_owns howns]

/-- Settles O31: the byte for each kind of peripheral. -/
theorem dmaTransmitStep : Obligations.DmaTransmitStep := by
  intro s c x0 p hs hgate hten htcr hmr hsel hdir howns
  have moves (hreq : dmaRequest p s = true) := exec_evDmaStep_moves (x0 := x0) hs
    (dmaStepFor?_eq_some_iff.2 ⟨hgate, hten, htcr, hsel, hreq⟩) hmr howns
  refine ⟨fun n hn hreq => ?_, fun e he hclk htxen hempty => ?_⟩
  · rw [moves ((dmaRequest_external hn).trans hreq), dmaMoveByte_tx_external hdir hn]
    rfl
  · rw [moves ((dmaRequest_engine_iff he).2 ⟨hclk, .inl ⟨hdir, htxen, hempty⟩⟩), dmaMoveByte_tx_engine hdir he]
    rfl

/-- Settles O32: the byte for each kind of peripheral, and what memory reads as after a byte is written. -/
theorem dmaReceiveStep : Obligations.DmaReceiveStep := by
  intro s c x0 p hs hgate hten htcr hmr hsel hdir howns hwf moved stores
  have hstores {x : Byte} {u : State} (hmem : u.mem = s.mem) (hreq : dmaRequest p s = true)
      (hbyte : dmaMoveByte p (s.chan c).mar x0 s = u.storeByte (s.chan c).mar x) : stores x u := by
    refine ⟨(u.storeByte (s.chan c).mar x).setChan c moved, ?_, rfl, ?_, fun a ha => ?_⟩
    · rw [← hbyte]
      exact exec_evDmaStep_moves hs (dmaStepFor?_eq_some_iff.2 ⟨hgate, hten, htcr, hsel, hreq⟩) hmr howns
    · exact memRead_memWrite_same u.mem _ x (hmem ▸ hwf)
    · rw [← hmem]
      exact memRead_memWrite_other u.mem x ha
  refine ⟨fun n hn hreq => ?_, fun e he hclk hrxrdy => ?_⟩
  · exact hstores rfl ((dmaRequest_external hn).trans hreq) (dmaMoveByte_rx_external hdir hn)
  · exact hstores rfl ((dmaRequest_engine_iff he).2 ⟨hclk, .inr ⟨hdir, hrxrdy⟩⟩) (dmaMoveByte_rx_engine hdir he)

/-- Settles O33: no identity meets the conditions of an enabled step, or the step's identity is `p` and it stops at the
mode or at the address. -/
theorem dmaStepStops : Obligations.DmaStepStops := by
  intro s c x0 hs
  refine ⟨fun hstill => ?_, fun p hsel => ⟨fun hengine hexternal => ?_, fun hgate hten htcr hrequest => ?_⟩⟩
  · refine exec_evDmaStep_not_enabled hs (dmaStepFor?_eq_none fun p hgate hten htcr hsel => ?_)
    obtain h | h | h | h := hstill
    · exact absurd hgate (by simp [h])
    · exact absurd hten (by simp [h])
    · exact absurd h htcr
    · exact absurd hsel (by simp [h])
  · refine exec_evDmaStep_not_enabled hs (dmaStepFor?_eq_none fun q _ _ _ hq hreq => ?_)
    obtain rfl : p = q := Option.some.inj (hsel.symm.trans hq)
    cases hp : periphOf p with
    | external n => exact Bool.false_ne_true ((hexternal n hp).symm.trans ((dmaRequest_external hp).symm.trans hreq))
    | engine e =>
      obtain ⟨hclk, ⟨hdir, htxen, hempty⟩ | ⟨hdir, hrxrdy⟩⟩ := (dmaRequest_engine_iff hp).1 hreq
      · exact absurd (hengine e hp) (by simp [hclk, hdir, htxen, hempty])
      · exact absurd (hengine e hp) (by simp [hclk, hdir, hrxrdy])
  · have hreq : dmaRequest p s = true := by
      obtain ⟨n, hn, hext⟩ | ⟨e, he, hready⟩ := hrequest
      · exact (dmaRequest_external hn).trans hext
      · exact (dmaRequest_engine_iff he).2 hready
    have henabled : dmaStepFor? c s = some p := dmaStepFor?_eq_some_iff.2 ⟨hgate, hten, htcr, hsel, hreq⟩
    exact ⟨exec_evDmaStep_unmodelled_mode hs henabled, fun hmr howns =>
      (exec_evDmaStep_move hs henabled hmr).trans (congrArg _ (dmaMove_out_of_buffer howns))⟩

end Sys2Proof.Machine
end

section
/-! PROOF. Abort and the channel's interrupt handler (41_dma_channel R193, R198, R204): one equation for each step with the
gate on. -/

namespace Sys2Proof.Machine

variable {s s' : State} {c : ChanIx} {p : Pid} {t : Word} {next : Option Buf → State → Micro}

theorem chanWrite_idr_all (x : Chan) : chanWrite .idr idrAll x = { x with imr := 0 } := by
  have hnone : ~~~(idrAll.extractLsb' 0 3) = 0#3 := by decide
  simp [chanWrite, hnone]

theorem chanWrite_tcr_zero (x : Chan) : chanWrite .tcr 0#32 x = { x with tcr := 0 } := chanWrite_tcr_ofNat 0 x

/-- A channel after an abort: mask, count and slot are cleared; TEN is not (R193). -/
def Chan.aborted (x : Chan) : Chan := { x with imr := 0, tcr := 0, slot := none }

section
variable (hgate : s.dmaGate = true)
include hgate

theorem abortSteps_idr : abortSteps c next 0 t s = .go 1 0 (s.setChan c { s.chan c with imr := 0 }) := by
  simp [abortSteps, hgate, chanWrite_idr_all]

theorem abortSteps_tcr :
    abortSteps c next 1 t s =
      next (s.chan c).slot (giveBack (s.chan c).slot (s.setChan c { s.chan c with tcr := 0, slot := none })) := by
  simp [abortSteps, hgate, chanWrite_tcr_zero]

theorem exec_dmaAbort (hs : s.Ready) :
    exec (.dmaAbort c) s =
      .next (emit (.ret .dmaAbort (.buf (s.chan c).slot)) (giveBack (s.chan c).slot (s.setChan c (s.chan c).aborted))) := by
  have ⟨_, _, hidle, _⟩ := hs
  refine (runHost_ready hs).trans (congrArg _ ?_)
  rw [maxSteps, runSteps_go _ (abortSteps_idr hgate), runSteps_ret _ (abortSteps_tcr (by simpa using hgate))]
  simp only [setCur_chan, setChan_chan_same, setChan_setCur, setChan_setChan, giveBack_setCur, emit_setCur, finish_setCur]
  exact finish_of_idle ((giveBack_cur _ _).trans hidle)

end

/-- Settles O25. With TCR at 0 no step of the channel is enabled, whatever TEN is (R204). -/
theorem abortResult : Obligations.AbortResult := by
  intro s c hs hgate
  refine ⟨_, exec_dmaAbort hgate hs, ?_, fun u x0 hu hchan => ?_⟩
  · rw [giveBack_eq]
    rfl
  · refine exec_evDmaStep_not_enabled hu (dmaStepFor?_eq_none fun _ _ _ htcr => absurd ?_ htcr)
    rw [hchan, giveBack_eq]
    exact congrArg Chan.tcr (setChan_chan_same s c _)

/-! ## The interrupt handler's first step -/

section
variable (hgate : s.dmaGate = true)
include hgate

theorem dmaHandleIrqSteps_unmapped (hsel : decodeSelector (s.chan c).psr = none) :
    dmaHandleIrqSteps c 0 t s = .stop (raise (.unmappedSelector c (s.chan c).psr) s) := by
  simp [dmaHandleIrqSteps, hgate, regValue, regReadEffect, chanRead?, hsel]

theorem dmaHandleIrqSteps_mapped (hsel : decodeSelector (s.chan c).psr = some p) :
    dmaHandleIrqSteps c 0 t s = dmaCallback c p s := by
  simp [dmaHandleIrqSteps, hgate, regValue, regReadEffect, chanRead?, hsel]

end

/-- A handler that its first step completes. -/
theorem exec_dmaHandleIrq_ret (hs : s.AtEntry (.dmaHandleIrq c)) (h : dmaHandleIrqSteps c 0 0 s = .ret s') :
    exec (.dmaHandleIrq c) s = .next (finish s') :=
  (runHandler_entry hs).trans (congrArg _ (runSteps_ret _ h))

/-- Settles O29: the first step reads the selector, and ends in the fault or in the callback, which completes the handler. -/
theorem channelHandler : Obligations.ChannelHandler := by
  intro s c hs hgate
  refine ⟨fun hsel => ?_, fun p hsel => ⟨fun hclient => ?_, fun k hclient => ?_⟩⟩
  · exact (runHandler_entry hs).trans (congrArg _ (runSteps_stop _ (dmaHandleIrqSteps_unmapped hgate hsel)))
  · exact exec_dmaHandleIrq_ret hs ((dmaHandleIrqSteps_mapped hgate hsel).trans (by rw [dmaCallback, hclient]))
  · have hcallback : dmaCallback c p s = .ret (emit (.dmaDone c p) s) := by rw [dmaCallback, hclient]
    exact exec_dmaHandleIrq_ret hs ((dmaHandleIrqSteps_mapped hgate hsel).trans hcallback)

end Sys2Proof.Machine
end

section
/-! PROOF. Selectors and peripherals (42_binding_and_routing R231 to R234; 30_encoding R121, R122): which words decode, and which
identities an engine serves. -/

namespace Sys2Proof.Machine

variable {p : Pid} {sel : Word} {e : SerIx} {n : PeriphName}

/-! ## The selector word -/

/-- A code is far below `2^32`, so that comparing the whole word is comparing codes (R231). -/
theorem decodeSelector_eq_some_iff : decodeSelector sel = some p ↔ sel = BitVec.ofNat 32 p.code := by
  have hcode : (BitVec.ofNat 32 p.code).toNat = p.code := Nat.mod_eq_of_lt (p.code_lt.trans (by decide))
  rw [decodeSelector, Pid.ofCode?_eq_some_iff, BitVec.toNat_eq, hcode, eq_comm]

theorem decodeSelector_eq_none_iff : decodeSelector sel = none ↔ ∀ p : Pid, p.code ≠ sel.toNat :=
  Pid.ofCode?_eq_none_iff

theorem pidCode_injective : Function.Injective Pid.code := fun _ _ h =>
  Option.some.inj ((Pid.ofCode?_eq_some_iff.2 h).symm.trans (Pid.ofCode?_eq_some_iff.2 rfl))

/-- The largest code is the last row's (R121). -/
theorem pidCode_le (p : Pid) : p.code ≤ 38 := by cases p <;> decide

/-- The code that R121 leaves unused between two rows. -/
theorem pidCode_ne_thirteen (p : Pid) : p.code ≠ 13 := by cases p <;> decide

theorem decodeSelector_of_gt (h : 38 < sel.toNat) : decodeSelector sel = none :=
  decodeSelector_eq_none_iff.2 fun p => ((pidCode_le p).trans_lt h).ne

/-! ## The peripheral of an identity -/

theorem periphOf_of_usart (h : p.periphName = .usart e) : periphOf p = .engine e := by
  rw [periphOf, h]
  exact dif_pos e.isLt

theorem periphOf_of_not_usart (h : ∀ e : SerIx, p.periphName ≠ .usart e) : periphOf p = .external p.periphName := by
  unfold periphOf
  split
  · next e he => exact absurd he (h e)
  · rfl

theorem periphOf_eq_engine_iff : periphOf p = .engine e ↔ p.periphName = .usart e := by
  refine ⟨fun h => ?_, periphOf_of_usart⟩
  by_cases hu : ∃ e', p.periphName = .usart e'
  · obtain ⟨e', he'⟩ := hu
    rw [periphOf_of_usart he'] at h
    exact Periph.engine.inj h ▸ he'
  · rw [periphOf_of_not_usart (not_exists.1 hu)] at h
    cases h

theorem periphOf_eq_external_iff : periphOf p = .external n ↔ p.periphName = n ∧ ∀ e : SerIx, n ≠ .usart e := by
  by_cases hu : ∃ e, p.periphName = .usart e
  · obtain ⟨e, he⟩ := hu
    rw [periphOf_of_usart he]
    exact ⟨nofun, fun ⟨hn, hne⟩ => absurd (hn.symm.trans he) (hne e)⟩
  · have hne := not_exists.1 hu
    rw [periphOf_of_not_usart hne, Periph.external.injEq]
    exact ⟨fun hn => ⟨hn, hn ▸ hne⟩, And.left⟩

/-- Settles O5: 13 is the unused code below the largest, and 39 and `0x118` lie above it. The rows of the table are closed
facts, one for each identity. -/
theorem selectorDecoding : Obligations.SelectorDecoding := by
  refine ⟨fun _ _ => decodeSelector_eq_some_iff, fun _ => decodeSelector_eq_some_iff.2 rfl,
    decodeSelector_eq_some_iff.2 rfl, decodeSelector_eq_none_iff.2 pidCode_ne_thirteen, decodeSelector_of_gt (by decide),
    decodeSelector_of_gt (by decide), fun _ _ h => pidCode_injective h, rfl, Pid.code_lt,
    ⟨13, pidCode_ne_thirteen, .twim1Tx, by decide⟩, ?rows, ?everyIdentity, fun _ _ => periphOf_eq_engine_iff,
    fun _ _ => periphOf_eq_external_iff⟩
  case rows => decide
  case everyIdentity => exact fun p => by cases p <;> decide

end Sys2Proof.Machine
end

section
/-! PROOF. Interrupt dispatch (10_state R47, R57, R58; 42_binding_and_routing R240; 60_exceptions R369): the bits of the two
status words, the two line conditions, and what IRQ_DISPATCH does. -/

namespace Sys2Proof.Machine

variable {s : State} {c : ChanIx} {e : SerIx} {l : Line} {x : Chan} {y : Ser} {j : Nat}

/-! ## The line conditions -/

theorem and_ne_zero_iff_exists_getLsbD {n : Nat} {a m : BitVec n} :
    a &&& m ≠ 0 ↔ ∃ j, a.getLsbD j = true ∧ m.getLsbD j = true := by
  constructor
  · intro h
    by_contra! hno
    refine h (BitVec.eq_of_getLsbD_eq fun j _ => ?_)
    simpa using hno j
  · rintro ⟨j, ha, hm⟩ h
    simpa [ha, hm] using congrArg (·.getLsbD j) h

theorem getLsbD_ite_twoPow {n k : Nat} (hk : k < n) (b : Bool) :
    (if b then BitVec.twoPow n k else 0).getLsbD j = true ↔ j = k ∧ b = true := by
  cases b <;> simp [hk, eq_comm]

theorem getLsbD_chanIsr : (chanIsr x).getLsbD j = true ↔ (j = 1 ∧ x.tcr = 0) ∨ j = 0 := by
  have hbits : chanIsr x = (if decide (x.tcr = 0) then BitVec.twoPow 3 1 else 0) ||| BitVec.twoPow 3 0 := by
    by_cases h : x.tcr = 0
    · rw [chanIsr, if_pos h, decide_eq_true h]
      rfl
    · rw [chanIsr, if_neg h, decide_eq_false h]
      rfl
  have hrcz : (BitVec.twoPow 3 0).getLsbD j = true ↔ j = 0 := by simp [eq_comm (a := j)]
  rw [hbits, BitVec.getLsbD_or, Bool.or_eq_true, getLsbD_ite_twoPow (by decide), hrcz, decide_eq_true_iff]

theorem getLsbD_serCsr : (serCsr y).getLsbD j = true ↔
    (j = 0 ∧ y.rxrdy = true) ∨ (j = 1 ∧ serTxrdy y = true) ∨ (j = 5 ∧ y.ovre = true) := by
  have hbits : serCsr y = (if y.rxrdy then BitVec.twoPow 32 0 else 0) |||
      (if serTxrdy y then BitVec.twoPow 32 1 else 0) ||| (if y.ovre then BitVec.twoPow 32 5 else 0) := rfl
  simp only [hbits, BitVec.getLsbD_or, Bool.or_eq_true, or_assoc]
  rw [getLsbD_ite_twoPow (by decide), getLsbD_ite_twoPow (by decide), getLsbD_ite_twoPow (by decide)]

/-- A channel's line is up exactly for TRC with its bit of IMR, or for that of RCZ, which always stands (R47). -/
theorem chanIrq_iff : chanIrq x = true ↔ (x.tcr = 0 ∧ x.imr.getLsbD 1 = true) ∨ x.imr.getLsbD 0 = true := by
  rw [chanIrq, decide_eq_true_iff, and_ne_zero_iff_exists_getLsbD]
  simp only [getLsbD_chanIsr, or_and_right, exists_or, and_assoc, exists_eq_left]

/-- An engine's line is up exactly for RXRDY, TXRDY or OVRE with its bit of IMR (R57). -/
theorem serIrq_iff :
    serIrq y = true ↔ (y.rxrdy = true ∧ y.imr.getLsbD 0 = true) ∨
      (y.txen = true ∧ y.thrFull = false ∧ y.imr.getLsbD 1 = true) ∨ (y.ovre = true ∧ y.imr.getLsbD 5 = true) := by
  have htxrdy : serTxrdy y = true ↔ y.txen = true ∧ y.thrFull = false := by simp [serTxrdy]
  rw [serIrq, decide_eq_true_iff, and_ne_zero_iff_exists_getLsbD]
  simp only [getLsbD_serCsr, htxrdy, or_and_right, exists_or, and_assoc, exists_eq_left]

/-! ## The dispatch -/

theorem dispatchEnabled_iff :
    dispatchEnabled l s = true ↔ s.cur = none ∧ lineMasked s l = false ∧ lineAsserted s l = true := by
  simp [dispatchEnabled, and_assoc, and_comm]

theorem dispatchEnabled_dma_iff :
    dispatchEnabled (.dma c) s = true ↔ s.cur = none ∧ s.dmaMasked.get c = false ∧
      (((s.chan c).tcr = 0 ∧ (s.chan c).imr.getLsbD 1 = true) ∨ (s.chan c).imr.getLsbD 0 = true) :=
  dispatchEnabled_iff.trans (and_congr_right' (and_congr_right' chanIrq_iff))

theorem dispatchEnabled_ser_iff :
    dispatchEnabled (.ser e) s = true ↔ s.cur = none ∧ s.serMasked.get e = false ∧
      (((s.eng e).rxrdy = true ∧ (s.eng e).imr.getLsbD 0 = true) ∨
        ((s.eng e).txen = true ∧ (s.eng e).thrFull = false ∧ (s.eng e).imr.getLsbD 1 = true) ∨
        ((s.eng e).ovre = true ∧ (s.eng e).imr.getLsbD 5 = true)) :=
  dispatchEnabled_iff.trans (and_congr_right' (and_congr_right' serIrq_iff))

section
variable (hs : s.Running)
include hs

theorem exec_irqDispatch_enabled (h : dispatchEnabled l s = true) :
    exec (.irqDispatch l) s = .next (trapEntry l s) := by
  simp only [exec, execIrqDispatch, runAgent_running hs, if_pos h]

theorem exec_irqDispatch_not_enabled (h : ¬ dispatchEnabled l s = true) : exec (.irqDispatch l) s = .next s := by
  simp only [exec, execIrqDispatch, runAgent_running hs, if_neg h]

/-- The dispatch by any condition equivalent to the line's. -/
theorem exec_irqDispatch_of_iff {on : Prop} (hon : dispatchEnabled l s = true ↔ on) :
    (on → exec (.irqDispatch l) s = .next (trapEntry l s)) ∧ (¬ on → exec (.irqDispatch l) s = .next s) :=
  ⟨fun h => exec_irqDispatch_enabled hs (hon.2 h), fun h => exec_irqDispatch_not_enabled hs (mt hon.1 h)⟩

end

/-- Settles O28, for the line of a channel and for that of an engine. -/
theorem dispatchResult : Obligations.DispatchResult := fun _ hs =>
  ⟨fun _ => exec_irqDispatch_of_iff hs dispatchEnabled_dma_iff, fun _ => exec_irqDispatch_of_iff hs dispatchEnabled_ser_iff⟩

end Sys2Proof.Machine
end

section
/-! PROOF. What stays with an engine (43_serial_uart R258, R269; 10_state R49, R55): the attachment invariant, and the engine's
configuration. Each is kept by every `Change`. -/

namespace Sys2Proof.Machine

/-! ## The attachment -/

/-- What the attachment invariant looks at (R269). -/
theorem BindInv.of_eq {s t : State} (hs : BindInv s) (hclient : ∀ c, (t.chan c).client = (s.chan c).client)
    (hdma : ∀ e, (t.eng e).dma = (s.eng e).dma) : BindInv t := fun c e hc => by
  rw [hdma]
  exact hs c e ((hclient c).symm.trans hc)

theorem setChan_client {s : State} {c : ChanIx} {x : Chan} (hx : x.client = (s.chan c).client) (c' : ChanIx) :
    ((s.setChan c x).chan c').client = (s.chan c').client := by
  rw [setChan_chan]
  split
  · next h => rw [hx, h]
  · rfl

theorem setEng_dma {s : State} {e : SerIx} {x : Ser} (hx : x.dma = (s.eng e).dma) (e' : SerIx) :
    ((s.setEng e x).eng e').dma = (s.eng e').dma := by
  rw [setEng_eng]
  split
  · next h => rw [hx, h]
  · rfl

/-- A channel whose new client is no serial engine is bound to none. -/
theorem BindInv.setChan_not_engine {s : State} (hs : BindInv s) (c : ChanIx) {x : Chan}
    (hx : ∀ e, x.client ≠ some (.serEngine e)) : BindInv (s.setChan c x) := fun c' e hc => by
  rw [setChan_chan] at hc
  split at hc
  · exact absurd hc (hx e)
  · exact hs c' e hc

/-- Attaching binds both sides at once; that the engine had no attachment before is what keeps it from leaving a channel
behind. -/
theorem BindInv.attach {s : State} (hs : BindInv s) {e : SerIx} (he : (s.eng e).dma = none) (c : ChanIx) (p : Pid) :
    BindInv ((s.setEng e { s.eng e with dma := some (c, p) }).setChan c
      { s.chan c with client := some (.serEngine e) }) := fun c' e' hc => by
  rw [setChan_eng, setEng_eng]
  rw [setChan_chan] at hc
  split at hc
  · next hcc =>
    obtain rfl : e = e' := by simpa using hc
    exact ⟨p, by rw [if_pos rfl, hcc]⟩
  · obtain ⟨q, hq⟩ := hs c' e' hc
    have hne : e' ≠ e := fun h => by simp [← h, hq] at he
    exact ⟨q, by rw [if_neg hne, hq]⟩

theorem Change.bindInv {s t : State} (h : Change s t) (hs : BindInv s) : BindInv t := by
  cases h with
  | minor h => exact hs.of_eq (fun c => congrArg (·.2.1) (h.chan c)) h.dma
  | slot c | switch c => exact hs.of_eq (setChan_client rfl) fun _ => rfl
  | chanClient c hclient => exact hs.setChan_not_engine c hclient
  | attach p he hc => exact hs.attach he _ p
  | engine e hdma => exact hs.of_eq (fun _ => rfl) (setEng_dma hdma)
  | place | byte | owner | boot => exact hs

/-- Settles O55: every change keeps the invariant, and a step is a chain of changes. -/
theorem attachmentKept : Obligations.AttachmentKept :=
  fun _ _ hs h => (step_moves h).keeps (fun _ _ h => h.bindInv) hs

/-! ## The configuration -/

/-- The engine is configured, clocked and unmasked in `t` wherever it is in `s` (R258, R55, R49). -/
structure StaysConfigured (e : SerIx) (s t : State) : Prop where
  mode : (s.eng e).mode ≠ .unused → (t.eng e).mode ≠ .unused
  clkOn : (s.eng e).clkOn = true → (t.eng e).clkOn = true
  unmasked : s.serMasked.get e = false → t.serMasked.get e = false

namespace StaysConfigured

variable {e : SerIx} {s t u : State}

protected theorem trans (h : StaysConfigured e s t) (h' : StaysConfigured e t u) : StaysConfigured e s u where
  mode hs := h'.mode (h.mode hs)
  clkOn hs := h'.clkOn (h.clkOn hs)
  unmasked hs := h'.unmasked (h.unmasked hs)

theorem of_eq (hmode : (t.eng e).mode = (s.eng e).mode) (hclk : (t.eng e).clkOn = (s.eng e).clkOn)
    (hmasked : t.serMasked = s.serMasked) : StaysConfigured e s t where
  mode hs := hmode ▸ hs
  clkOn hs := hclk ▸ hs
  unmasked hs := hmasked ▸ hs

/-- An engine is replaced by one that is configured and clocked if it was. -/
theorem setEng {e' : SerIx} {x : Ser} (hmode : (s.eng e').mode ≠ .unused → x.mode ≠ .unused)
    (hclk : (s.eng e').clkOn = true → x.clkOn = true) : StaysConfigured e s (s.setEng e' x) := by
  by_cases he : e = e'
  · subst he
    exact ⟨by rwa [setEng_eng_same], by rwa [setEng_eng_same], id⟩
  · exact .of_eq (by rw [setEng_eng_other s x he]) (by rw [setEng_eng_other s x he]) rfl

end StaysConfigured

theorem Change.staysConfigured (e : SerIx) {s t : State} (h : Change s t) : StaysConfigured e s t := by
  cases h with
  | minor h => exact .of_eq (h.mode e) (congrArg (·.2.2.2.2) (h.eng e)) h.serMasked
  | @attach e' c p =>
    have heng := StaysConfigured.setEng (e := e) (s := s) (e' := e') (x := { s.eng e' with dma := some (c, p) }) id id
    exact heng.trans (.of_eq rfl rfl rfl)
  | engine e' _ hmode hclk => exact .setEng hmode hclk
  | boot => exact ⟨id, id, fun _ => by simp [Vector.get_eq_getElem]⟩
  | place | byte | owner | slot | chanClient | switch => exact .of_eq rfl rfl rfl

/-- Settles O57: no change takes the configuration back, and a step is a chain of changes. -/
theorem engineStaysConfigured : Obligations.EngineStaysConfigured := by
  intro s s' e h
  obtain ⟨hmode, hclk, hunmasked⟩ := (step_moves h).keeps (I := StaysConfigured e s)
    (fun _ _ h hs => hs.trans (h.staysConfigured e)) (.of_eq rfl rfl rfl)
  exact ⟨hmode, hclk, hunmasked⟩

end Sys2Proof.Machine
end

section
/-! PROOF. The shifter's steps (43_serial_uart R280 to R285): what a step is when it is made, when it is not enabled and when it
is refused, and the three effects. -/

namespace Sys2Proof.Machine

variable {s : State} {e : SerIx} {m : Byte} {ready : Bool} {f : State → State}

/-! ## When a step is made -/

/-- The serial modes in which the shifter is modelled (R280). -/
abbrev Ser.Modelled (x : Ser) : Prop := x.mr.extractLsb' 0 4 = 0x0#4 ∨ x.mr.extractLsb' 0 4 = 0xE#4

theorem shifterStep_made (hclk : (s.eng e).clkOn = true) (hready : ready = true) (hmode : (s.eng e).Modelled) :
    shifterStep e ready f s = f s := by
  rw [shifterStep, hclk, hready]
  exact if_pos hmode

theorem shifterStep_refused (hclk : (s.eng e).clkOn = true) (hready : ready = true) (hmode : ¬ (s.eng e).Modelled) :
    shifterStep e ready f s = refuse .unmodelledMode s := by
  rw [shifterStep, hclk, hready]
  exact if_neg hmode

theorem shifterStep_not_enabled (h : (s.eng e).clkOn = false ∨ ready = false) : shifterStep e ready f s = s := by
  have hnot : ((s.eng e).clkOn && ready) = false := Bool.and_eq_false_iff.2 h
  rw [shifterStep, hnot]
  rfl

theorem loadReady_iff {x : Ser} : loadReady x = true ↔ x.thrFull = true ∧ x.shift = none ∧ x.txen = true := by
  simp [loadReady, and_assoc]

/-- A byte arrives from outside only where the receiver is on and the mode is not SPI's (R284). -/
theorem rxReady_iff {x : Ser} :
    (x.rxen && decide (serModeField x ≠ 0xE#4)) = true ↔ x.rxen = true ∧ x.mr.extractLsb' 0 4 ≠ 0xE#4 := by
  rw [Bool.and_eq_true, decide_eq_true_iff]
  rfl

/-! ## The three steps of a running machine -/

section
variable (hs : s.Running)
include hs

theorem exec_evSerLoad :
    exec (.evSerLoad e) s = .next (shifterStep e (loadReady (s.eng e)) (serLoad e) s) := runAgent_running hs

theorem exec_evSerShift :
    exec (.evSerShift e m) s = .next (shifterStep e (s.eng e).shift.isSome (serShift e m) s) := runAgent_running hs

theorem exec_evSerRxArrive :
    exec (.evSerRxArrive e m) s =
      .next (shifterStep e ((s.eng e).rxen && decide (serModeField (s.eng e) ≠ 0xE#4)) (serArrive e m) s) :=
  runAgent_running hs

end

/-- The byte leaves, and an SPI master with the receiver on takes the drawn byte in (R283). -/
theorem serShift_eq {b : Byte} (hb : (s.eng e).shift = some b) :
    serShift e m s =
      if (s.eng e).mr.extractLsb' 0 4 = 0xE#4 ∧ (s.eng e).rxen = true then
        serArrive e m ((emit (.txLine e b) s).setEng e { s.eng e with shift := none })
      else (emit (.txLine e b) s).setEng e { s.eng e with shift := none } := by
  rw [serShift, hb]
  rfl

/-- Settles O47, by the effect of each step. -/
theorem shifterSteps : Obligations.ShifterSteps := by
  intro s e m hs hclk x arrived
  have arrives (u : State) : serArrive e m u = u.setEng e (arrived (u.eng e)) := rfl
  refine ⟨fun hmode => ⟨fun hfull hempty htxen => ?_, fun b hb => ?_⟩, fun hmode hrxen => ?_⟩
  · rw [exec_evSerLoad hs, shifterStep_made hclk (loadReady_iff.2 ⟨hfull, hempty, htxen⟩) hmode]
    rfl
  · rw [exec_evSerShift hs, shifterStep_made hclk (by rw [hb]; rfl) hmode, serShift_eq hb]
    refine ⟨fun htakes => ?_, fun hskips => ?_⟩
    · rw [if_pos htakes, arrives, setEng_eng_same, setEng_setEng]
      rfl
    · rw [if_neg hskips]
      rfl
  · have hready := rxReady_iff.2 ⟨hrxen, fun h : x.mr.extractLsb' 0 4 = 0xE#4 => absurd (hmode.symm.trans h) (by decide)⟩
    rw [exec_evSerRxArrive hs, shifterStep_made hclk hready (.inl hmode), arrives]

/-- Settles O48: each step is not enabled without the clock or its condition, and refused in another mode. -/
theorem shifterStops : Obligations.ShifterStops := by
  intro s e m hs x unmodelled
  rw [exec_evSerLoad hs, exec_evSerShift hs, exec_evSerRxArrive hs]
  have holds {ready : Bool} {f : State → State} (h : x.clkOn = false ∨ ready = false) :
      Host.Outcome.next (φ := Fault) (ρ := Refusal) (shifterStep e ready f s) = .next s :=
    congrArg _ (shifterStep_not_enabled h)
  refine ⟨fun hclk => ⟨holds (.inl hclk), holds (.inl hclk), holds (.inl hclk)⟩, fun hload => holds (.inr ?_),
    fun hempty => holds (.inr (by rw [hempty]; rfl)), fun hrx => holds (.inr ?_), fun hclk hmode => ?_⟩
  · rw [← Bool.not_eq_true, loadReady_iff]
    rintro ⟨hfull, hempty, htxen⟩
    simp [x, hfull, hempty, htxen] at hload
  · rw [← Bool.not_eq_true, rxReady_iff]
    rintro ⟨hrxen, hnotSpi⟩
    exact hrx.elim (fun h => Bool.false_ne_true (h.symm.trans hrxen)) hnotSpi
  · have refuses {ready : Bool} {f : State → State} (h : ready = true) :
        Host.Outcome.next (φ := Fault) (ρ := Refusal) (shifterStep e ready f s) = .next (refuse .unmodelledMode s) :=
      congrArg _ (shifterStep_refused hclk h (not_or.2 hmode))
    exact ⟨fun hfull hempty htxen => refuses (loadReady_iff.2 ⟨hfull, hempty, htxen⟩), refuses,
      fun hrxen => refuses (rxReady_iff.2 ⟨hrxen, hmode.2⟩)⟩

end Sys2Proof.Machine
end

section
/-! PROOF. The UART operations that the host runs on one engine (43_serial_uart R260 to R263, R270 to R274): the four enables,
the configuration with the conditions under which it stops, and the sending of one byte. One equation for each step. -/

namespace Sys2Proof.Machine

variable {s : State} {e : SerIx} {p : UartParams} {b : Byte} {t : Word}

/-! ## The enables -/

/-- An operation that writes one command word to CR is that write, and its Ret; chip-select stays where the word leaves it. -/
theorem crCommandSteps_eq {v : Word} {x : Ser} (o : Op) (hclk : (s.eng e).clkOn = true)
    (hx : crEngine e v (s.eng e) = x) (hcs : x.csAsserted = (s.eng e).csAsserted) :
    crCommandSteps o e v 0 t s = .ret (emit (.ret o .unit) (s.setEng e x)) := by
  subst hx
  have hwrite : serWrite e .cr v s = s.setEng e (crEngine e v (s.eng e)) := if_pos hcs
  rw [crCommandSteps, regWrite_done (regAt_serAddr e .cr) hclk, andThen_done, regWriteEffect, hwrite]
  rfl

theorem crEngine_txen (x : Ser) : crEngine e crTxen x = { x with txen := true } := by
  simp [crEngine, crTxen, enableAfter]

theorem crEngine_txdis (x : Ser) : crEngine e crTxdis x = { x with txen := false } := by
  simp [crEngine, crTxdis, enableAfter]

theorem crEngine_rxen (x : Ser) : crEngine e crRxen x = { x with rxen := true } := by
  simp [crEngine, crRxen, enableAfter]

theorem crEngine_rxdis (x : Ser) : crEngine e crRxdis x = { x with rxen := false } := by
  simp [crEngine, crRxdis, enableAfter]

/-- Settles O40: what each command word makes of the engine. -/
theorem transmitterAndReceiverEnables : Obligations.TransmitterAndReceiverEnables := fun _ _ hs hclk =>
  ⟨exec_of_step_ret rfl hs (crCommandSteps_eq (t := 0) _ hclk (crEngine_txen _) rfl) rfl,
    exec_of_step_ret rfl hs (crCommandSteps_eq (t := 0) _ hclk (crEngine_txdis _) rfl) rfl,
    exec_of_step_ret rfl hs (crCommandSteps_eq (t := 0) _ hclk (crEngine_rxen _) rfl) rfl,
    exec_of_step_ret rfl hs (crCommandSteps_eq (t := 0) _ hclk (crEngine_rxdis _) rfl) rfl⟩

/-! ## One byte -/

/-- A byte held in a word is the word's lowest byte. -/
theorem byte_extract_zeroExtend (x : Byte) : (x.zeroExtend 32).extractLsb' 0 8 = x := by
  rw [← BitVec.setWidth_eq_extractLsb' (by decide)]
  exact BitVec.setWidth_setWidth_of_le x (by decide)

theorem serSendByteSteps_wrong_mode (hmode : (s.eng e).mode ≠ .uart) :
    serSendByteSteps e b 0 t s = .stop (raise (.wrongMode e .serSendByte) s) := if_pos hmode

/-- The poll reads CSR, without effect, and goes on or holds by TXRDY (R263). -/
theorem serSendByteSteps_poll (hmode : (s.eng e).mode = .uart) (hclk : (s.eng e).clkOn = true) :
    serSendByteSteps e b 0 t s =
      if (s.eng e).txen = true ∧ (s.eng e).thrFull = false then .go 1 0 s else .hold := by
  have htxrdy : (serCsr (s.eng e)).getLsbD 1 = true ↔ (s.eng e).txen = true ∧ (s.eng e).thrFull = false := by
    rw [getLsbD_serCsr]
    simp [serTxrdy]
  have hread : regRead (serAddr e .csr) s = .done (serCsr (s.eng e)) s := regRead_done (regAt_serAddr e .csr) hclk
  rw [serSendByteSteps, if_neg (not_not.2 hmode), hread, andThen_done]
  simp only [htxrdy]

theorem serSendByteSteps_thr (hclk : (s.eng e).clkOn = true) (hempty : (s.eng e).thrFull = false) :
    serSendByteSteps e b 1 t s =
      .ret (emit (.ret .serSendByte .unit) (s.setEng e { s.eng e with thr := b, thrFull := true })) := by
  simp [serSendByteSteps, hclk, serWrite, thrWrite, hempty, byte_extract_zeroExtend, retWith]

/-- Settles O37: the poll decides between the write and the hold. -/
theorem sendByte : Obligations.SendByte := by
  intro s e b hs
  refine ⟨fun hmode => exec_of_step_stop rfl hs (serSendByteSteps_wrong_mode (b := b) (t := 0) hmode), fun hmode hclk => ?_⟩
  have hpoll := serSendByteSteps_poll (b := b) (t := 0) hmode hclk
  rw [exec_eq_runHost rfl, runHost_ready hs, maxSteps]
  refine ⟨fun hready => ?_, fun hbusy => ?_⟩
  · have ⟨_, _, hidle, _⟩ := hs
    rw [if_pos hready] at hpoll
    rw [cpuBody, runSteps_go _ hpoll, runSteps_ret _ (serSendByteSteps_thr (by simpa using hclk) (by simpa using hready.2)),
      setCur_eng, setEng_setCur, emit_setCur, finish_setCur, finish_of_idle]
    exact hidle
  · rw [if_neg hbusy] at hpoll
    exact congrArg _ (runSteps_hold _ hpoll)

/-! ## The configuration -/

/-- An exchange is outstanding, or the attached channel holds a buffer (R274). -/
theorem engineBusy_iff :
    engineBusy s e = true ↔
      (s.eng e).ctx.isSome = true ∨ ∃ c q, (s.eng e).dma = some (c, q) ∧ (s.chan c).slot.isSome = true := by
  rw [engineBusy, Bool.or_eq_true]
  refine or_congr_right ?_
  cases (s.eng e).dma with
  | none => simp
  | some cq => simp [Prod.ext_iff]

/-- The divisor of a baud rate, before its range is checked (R16, R262). -/
abbrev rawDivisor (baud : Word) : Nat := Config.baudDivisor Config.refClkHz baud.toNat Config.overSel

theorem baudDivisor?_eq_some {baud : Word} (hbaud : baud ≠ 0) (hlow : 1 ≤ rawDivisor baud)
    (hhigh : rawDivisor baud ≤ 65535) : baudDivisor? baud = some (BitVec.ofNat 16 (rawDivisor baud)) := by
  rw [baudDivisor?, if_neg hbaud]
  exact if_neg (not_or.2 ⟨Nat.ne_of_gt hlow, Nat.not_lt.2 hhigh⟩)

theorem baudDivisor?_eq_none {baud : Word} (h : baud = 0 ∨ rawDivisor baud = 0 ∨ 65535 < rawDivisor baud) :
    baudDivisor? baud = none := by
  rw [baudDivisor?]
  split
  · rfl
  · next hbaud => exact if_pos (h.resolve_left hbaud)

theorem serConfigureUartSteps_busy (h : engineBusy s e = true) :
    serConfigureUartSteps e p 0 t s = .stop (raise (.reconfigureWhileBusy e) s) := if_pos h

theorem serInitSpiSteps_busy (h : engineBusy s e = true) :
    serInitSpiSteps e 0 t s = .stop (raise (.reconfigureWhileBusy e) s) := if_pos h

theorem serConfigureUartSteps_baud_invalid (hbusy : engineBusy s e = false) (hbaud : baudDivisor? p.baud = none) :
    serConfigureUartSteps e p 0 t s = .stop (raise (.baudInvalid e p.baud) s) := by
  simp [serConfigureUartSteps, hbusy, hbaud]

/-- Settles O36: each fault is the first step's. -/
theorem configurationStops : Obligations.ConfigurationStops := by
  intro s e p hs
  refine ⟨engineBusy_iff, fun hbusy => ⟨?_, ?_⟩, fun hbusy hbaud => ?_⟩
  · exact exec_of_step_stop rfl hs (serConfigureUartSteps_busy (p := p) (t := 0) hbusy)
  · exact exec_of_step_stop rfl hs (serInitSpiSteps_busy (t := 0) hbusy)
  · exact exec_of_step_stop rfl hs
      (serConfigureUartSteps_baud_invalid (p := p) (t := 0) hbusy (baudDivisor?_eq_none hbaud))

theorem serConfigureUartSteps_brgr {cd : BitVec 16} (hbusy : engineBusy s e = false)
    (hbaud : baudDivisor? p.baud = some cd) :
    serConfigureUartSteps e p 0 t s =
      .go 1 0 (s.setEng e { s.eng e with clkOn := true, brgr := brgrWord cd }) := by
  simp [serConfigureUartSteps, hbusy, hbaud, serWrite, setClock]

section
variable (hclk : (s.eng e).clkOn = true)
include hclk

theorem serConfigureUartSteps_mr :
    serConfigureUartSteps e p 1 t s = .go 2 0 (s.setEng e { s.eng e with mr := mrUart p, mode := .uart }) := by
  simp [serConfigureUartSteps, hclk, serWrite]

theorem serConfigureUartSteps_ier :
    serConfigureUartSteps e p 2 t s =
      .ret (emit (.ret .serConfigureUart .unit) (s.setEng e { s.eng e with imr := (s.eng e).imr ||| 1 })) := by
  have hmask : siRxrdy &&& serIntBits = 1 := by decide
  simp [serConfigureUartSteps, hclk, serWrite, hmask, retWith]

end

theorem exec_serConfigureUart {cd : BitVec 16} (hs : s.Ready) (hbusy : engineBusy s e = false)
    (hbaud : baudDivisor? p.baud = some cd) :
    exec (.serConfigureUart e p) s =
      .next (emit (.ret .serConfigureUart .unit) (s.setEng e { s.eng e with
        clkOn := true, brgr := brgrWord cd, mr := mrUart p, mode := .uart, imr := (s.eng e).imr ||| 1 })) := by
  have ⟨_, _, hidle, _⟩ := hs
  rw [exec_eq_runHost rfl, runHost_ready hs, maxSteps, cpuBody, runSteps_go _ (serConfigureUartSteps_brgr hbusy hbaud),
    runSteps_go _ (serConfigureUartSteps_mr (by simp)), runSteps_ret _ (serConfigureUartSteps_ier (by simp))]
  simp only [setCur_eng, setEng_setCur, setEng_eng_same, setEng_setEng, emit_setCur, finish_setCur]
  exact congrArg _ (finish_of_idle hidle)

theorem brgrWord_ofNat {d : Nat} (hd : d ≤ 65535) : brgrWord (BitVec.ofNat 16 d) = BitVec.ofNat 32 d := by
  apply BitVec.eq_of_toNat_eq
  simp only [brgrWord, BitVec.truncate_eq_setWidth, BitVec.toNat_setWidth, BitVec.toNat_ofNat]
  omega

theorem DataBits.code_lt (x : DataBits) : x.code.toNat < 4 := by cases x <;> decide

theorem Parity.code_lt (x : Parity) : x.code.toNat < 8 := by cases x <;> decide

theorem StopBits.code_lt (x : StopBits) : x.code.toNat < 4 := by cases x <;> decide

/-- The three fields of the mode word lie side by side, from bits 6, 9 and 12 (R131). -/
theorem uartFields_eq : ∀ (chrl : Fin 4) (par : Fin 8) (nbstop : Fin 4),
    ((BitVec.ofNat 8 chrl).zeroExtend 32 <<< 6) ||| ((BitVec.ofNat 8 par).zeroExtend 32 <<< 9) |||
      ((BitVec.ofNat 8 nbstop).zeroExtend 32 <<< 12) = BitVec.ofNat 32 (64 * chrl + 512 * par + 4096 * nbstop) := by
  decide

theorem mrUart_eq (p : UartParams) :
    mrUart p =
      BitVec.ofNat 32 (64 * p.dataBits.code.toNat + 512 * p.parity.code.toNat + 4096 * p.stopBits.code.toNat) := by
  have hfields := uartFields_eq ⟨_, DataBits.code_lt p.dataBits⟩ ⟨_, Parity.code_lt p.parity⟩ ⟨_, StopBits.code_lt p.stopBits⟩
  simp only [BitVec.ofNat_toNat, BitVec.setWidth_eq] at hfields
  have hover : BitVec.ofNat 32 Config.overSel <<< 19 = 0#32 := by decide
  rw [mrUart, hover, BitVec.or_zero, hfields]

/-- Settles O34: the words that the three writes leave, as numbers. -/
theorem configureUart : Obligations.ConfigureUart := by
  intro s e p hs hbusy hbaud d chrl par nbstop hlow hhigh
  have hchrl : chrl = p.dataBits.code.toNat := by simp only [chrl]; cases p.dataBits <;> rfl
  have hpar : par = p.parity.code.toNat := by simp only [par]; cases p.parity <;> rfl
  have hnbstop : nbstop = p.stopBits.code.toNat := by simp only [nbstop]; cases p.stopBits <;> rfl
  refine ⟨rfl, ?_⟩
  rw [exec_serConfigureUart hs hbusy (baudDivisor?_eq_some hbaud hlow hhigh), brgrWord_ofNat hhigh, mrUart_eq, hchrl, hpar,
    hnbstop]

end Sys2Proof.Machine
end

section
/-! PROOF. SER_SEND_BYTES (43_serial_uart R264; 41_dma_channel R191): its checks, and then DMA_DO_TRANSFER on the attached
channel, whose steps are its own for as long as the engine stays attached. -/

namespace Sys2Proof.Machine

variable {s : State} {e : SerIx} {c : ChanIx} {p : Pid} {buf : Buf} {len t : Word}

/-! ## The program part and the start part in one run -/

/-- Two operations whose steps agree in the states that a run goes through make the same run. -/
theorem runSteps_congr {op : Instr} {body body' : Body} {P : Nat → State → Prop} (hplace : ∀ k u o, P k u → P k (setCur o u))
    (heq : ∀ k t u, P k u → body k t u = body' k t u)
    (hgo : ∀ k t u, P k u → (body' k t u).Sat P (fun _ => True) fun _ => True)
    (n k : Nat) (t : Word) (s : State) (hs : P k s) : runSteps op body n k t s = runSteps op body' n k t s := by
  induction n generalizing k t s with
  | zero => rfl
  | succ n ih =>
    have hbody := heq k t s hs
    have hsat := hgo k t s hs
    cases h : body' k t s with
    | go k' t' u =>
      rw [h] at hbody hsat
      rw [runSteps_go n hbody, runSteps_go n h]
      exact ih k' t' _ (hplace k' u _ hsat)
    | hold => rw [runSteps_hold n (hbody.trans h), runSteps_hold n h]
    | ret u => rw [runSteps_ret n (hbody.trans h), runSteps_ret n h]
    | stop u => rw [runSteps_stop n (hbody.trans h), runSteps_stop n h]

/-- The steps of DMA_DO_TRANSFER, whichever operation makes them, leave the channel programmed and started. -/
theorem runSteps_doTransfer (op : Instr) (o : Op) (n : Nat) (hidle : s.cur = none) (hgate : s.dmaGate = true)
    (howner : bufOwner s.bufs buf.id = .host) (hslot : (s.chan c).slot = none) (hlen : clampLen len buf ≤ maxTransfer) :
    runSteps op (doTransferSteps o c p buf len) (n + 5) 0 0 s =
      emit (.ret o .unit) ((s.programmed c p buf len).setChan c { (s.programmed c p buf len).chan c with ten := true }) := by
  have hbody : ∀ k < 4, ∀ t s, doTransferSteps o c p buf len k t s = programSteps c p buf len (.go 4 0) k t s :=
    fun k hk _ _ => if_neg (Nat.ne_of_lt hk)
  obtain ⟨u, hrun, hgo⟩ := runSteps_program (op := op) hgate howner hslot hlen hbody (n + 2)
  have hgate' q : (setCur q (s.programmed c p buf len)).dmaGate = true := hgate
  rw [hrun, runSteps_go _ hgo, setCur_setCur, runSteps_ret _ (doTransferSteps_start (hgate' _) _)]
  simp only [setCur_chan, setChan_setCur, emit_setCur, finish_setCur]
  exact finish_of_idle hidle

/-! ## The steps of SER_SEND_BYTES -/

/-- A step of DMA_DO_TRANSFER that goes on does so past the first step, and leaves every engine's attachment. -/
theorem doTransferSteps_go (o : Op) (k : Nat) :
    (doTransferSteps o c p buf len k t s).Sat (fun k' u => k' ≠ 0 ∧ (u.eng e).dma = (s.eng e).dma) (fun _ => True)
      fun _ => True := by
  unfold doTransferSteps
  split
  · exact .access (regWrite_minor _ _ s) (fun _ _ => trivial) fun _ _ _ => trivial
  · refine programSteps_sat (fun _ _ => trivial) (fun _ _ _ u h => ⟨trivial, Nat.one_ne_zero, h.dma e⟩)
      (fun _ _ u h => ⟨Nat.succ_ne_zero _, h.dma e⟩) fun _ u h => ?_
    exact ⟨by decide, h.dma e⟩

theorem serSendBytesSteps_attached {k : Nat} (hk : k ≠ 0) (hdma : (s.eng e).dma = some (c, p)) :
    serSendBytesSteps e buf len k t s = doTransferSteps .serSendBytes c p buf len k t s := by
  obtain ⟨k, rfl⟩ := Nat.exists_eq_succ_of_ne_zero hk
  simp only [serSendBytesSteps, hdma]

theorem serSendBytesSteps_not_host (howner : bufOwner s.bufs buf.id ≠ .host) :
    serSendBytesSteps e buf len 0 t s = .stop (refuse .bufferNotHostOwned s) := by
  simp [serSendBytesSteps, sendBytesCheck, howner]

theorem serSendBytesSteps_wrong_mode (howner : bufOwner s.bufs buf.id = .host) (hmode : (s.eng e).mode ≠ .uart) :
    serSendBytesSteps e buf len 0 t s = .stop (raise (.wrongMode e .serSendBytes) s) := by
  simp [serSendBytesSteps, sendBytesCheck, howner, hmode]

section
variable (howner : bufOwner s.bufs buf.id = .host) (hmode : (s.eng e).mode = .uart)
include howner hmode

theorem serSendBytesSteps_no_channel (hdma : (s.eng e).dma = none) :
    serSendBytesSteps e buf len 0 t s = .stop (raise (.noDmaChannel e) s) := by
  simp [serSendBytesSteps, sendBytesCheck, howner, hmode, hdma]

theorem serSendBytesSteps_outstanding (hdma : (s.eng e).dma = some (c, p)) (hslot : (s.chan c).slot.isSome = true) :
    serSendBytesSteps e buf len 0 t s = .stop (raise (.transferOutstanding e) s) := by
  simp [serSendBytesSteps, sendBytesCheck, howner, hmode, hdma, hslot]

/-- With the checks passed the first step is that of DMA_DO_TRANSFER. -/
theorem serSendBytesSteps_passed (hdma : (s.eng e).dma = some (c, p)) (hslot : (s.chan c).slot = none) :
    serSendBytesSteps e buf len 0 t s = doTransferSteps .serSendBytes c p buf len 0 t s := by
  simp [serSendBytesSteps, sendBytesCheck, howner, hmode, hdma, hslot]

end

/-- SER_SEND_BYTES at its step `k`, to be made on the channel `c`: the engine is attached to it, and at the first step the
checks pass. -/
def SendsOn (e : SerIx) (buf : Buf) (c : ChanIx) (p : Pid) (k : Nat) (s : State) : Prop :=
  (s.eng e).dma = some (c, p) ∧
    (k = 0 → bufOwner s.bufs buf.id = .host ∧ (s.eng e).mode = .uart ∧ (s.chan c).slot = none)

theorem SendsOn.step_eq {k : Nat} (h : SendsOn e buf c p k s) :
    serSendBytesSteps e buf len k t s = doTransferSteps .serSendBytes c p buf len k t s := by
  obtain ⟨hdma, hfirst⟩ := h
  by_cases hk : k = 0
  · obtain ⟨howner, hmode, hslot⟩ := hfirst hk
    exact hk ▸ serSendBytesSteps_passed howner hmode hdma hslot
  · exact serSendBytesSteps_attached hk hdma

/-- With the checks passed, SER_SEND_BYTES is DMA_DO_TRANSFER on the attached channel. -/
theorem runSteps_serSendBytes (op : Instr) (n : Nat) (h : SendsOn e buf c p 0 s) :
    runSteps op (serSendBytesSteps e buf len) n 0 t s = runSteps op (doTransferSteps .serSendBytes c p buf len) n 0 t s := by
  refine runSteps_congr (fun _ _ _ h => h) (fun _ _ _ h => h.step_eq) (fun k t u ⟨hdma, _⟩ => ?_) n 0 t s h
  exact (doTransferSteps_go (e := e) _ k).mono (fun _ _ ⟨hk, hu⟩ => ⟨hu.trans hdma, fun h => absurd h hk⟩)
    (fun _ => id) fun _ => id

/-- Settles O38: the four checks, then those of the program part, then the whole of DMA_DO_TRANSFER. -/
theorem sendBytes : Obligations.SendBytes := by
  intro s e buf len hs
  have stops {s' : State} (h : serSendBytesSteps e buf len 0 0 s = .stop s') : exec (.serSendBytes e buf len) s = .next s' :=
    exec_of_step_stop rfl hs h
  refine ⟨fun howner => stops (serSendBytesSteps_not_host howner), fun howner =>
    ⟨fun hmode => stops (serSendBytesSteps_wrong_mode howner hmode), fun hmode =>
      ⟨fun hdma => stops (serSendBytesSteps_no_channel howner hmode hdma), fun c p hdma =>
        ⟨fun hslot => stops (serSendBytesSteps_outstanding howner hmode hdma hslot), fun hslot => ?_⟩⟩⟩⟩
  have hpassed : serSendBytesSteps e buf len 0 0 s = programSteps c p buf len (.go 4 0) 0 0 s :=
    serSendBytesSteps_passed howner hmode hdma hslot
  refine ⟨fun hlen => stops (hpassed.trans (programSteps_too_long howner hslot hlen)),
    fun hlen hgate => stops (hpassed.trans (programSteps_gated howner hslot hlen hgate)), fun hlen hgate => ?_⟩
  have ⟨_, _, hidle, _⟩ := hs
  rw [exec_eq_runHost rfl, runHost_ready hs, maxSteps, cpuBody,
    runSteps_serSendBytes _ _ ⟨hdma, fun _ => ⟨howner, hmode, hslot⟩⟩,
    runSteps_doTransfer _ _ _ hidle hgate howner hslot hlen]
  simp [State.programmed, selectorWord, clampLen]

end Sys2Proof.Machine
end

section
/-! PROOF. The serial engine's handlers (43_serial_uart R265 to R267; 60_exceptions R371): SER_HANDLE_IRQ outside an exchange,
and SER_DMA_DONE, alone and as the end of DMA_HANDLE_IRQ. One equation for each step. -/

namespace Sys2Proof.Machine

variable {s s' : State} {e : SerIx} {c : ChanIx} {q : Pid} {t v : Word} {i : Instr}

/-! ## The end of an operation -/

/-- A step that ends its operation, and the machine it leaves: complete, or stopped by a fault or a refusal. -/
def Micro.EndsIn (u : State) : Micro → Prop
  | .ret v => u = finish v
  | .stop v => u = v
  | _ => False

theorem Micro.EndsIn.shift {m : Micro} {u : State} (h : m.EndsIn u) (n : Nat) : (m.shift n).EndsIn u := by
  cases m <;> exact h

theorem runSteps_endsIn {op : Instr} {body : Body} {k : Nat} {u : State} (n : Nat) (h : (body k t s).EndsIn u) :
    runSteps op body (n + 1) k t s = u := by
  cases hb : body k t s with
  | ret v => exact (runSteps_ret n hb).trans (hb ▸ h).symm
  | stop v => exact (runSteps_stop n hb).trans (hb ▸ h).symm
  | go | hold =>
    rw [hb] at h
    exact h.elim

/-! ## SER_HANDLE_IRQ -/

section
variable (hclk : (s.eng e).clkOn = true)
include hclk

/-- The first step reads CSR, without effect, and goes on where a byte is waiting (R265). -/
theorem serHandleIrqSteps_csr :
    serHandleIrqSteps e 0 t s = if (s.eng e).rxrdy then .go 1 0 s else .ret s := by
  have hrxrdy : (serCsr (s.eng e)).getLsbD 0 = (s.eng e).rxrdy := by
    rw [Bool.eq_iff_iff, getLsbD_serCsr]
    simp
  have hread : regRead (serAddr e .csr) s = .done (serCsr (s.eng e)) s := regRead_done (regAt_serAddr e .csr) hclk
  rw [serHandleIrqSteps, hread, andThen_done, hrxrdy]

/-- The second step takes the byte, which clears RXRDY, and does what the mode asks (R265). -/
theorem serHandleIrqSteps_rhr :
    serHandleIrqSteps e 1 t s =
      afterRhr e ((s.eng e).rhr.zeroExtend 32) (s.setEng e { s.eng e with rxrdy := false }) := by
  rw [serHandleIrqSteps, regRead_done (regAt_serAddr e .rhr) hclk, andThen_done]
  rfl

end

/-- The byte is dropped outside UART mode with no exchange in progress, and in UART mode with no client (R265, R266, R320). -/
theorem afterRhr_drop
    (h : (s.eng e).mode = .unused ∨ ((s.eng e).mode = .spi ∧ (s.eng e).ctx = none) ∨
      ((s.eng e).mode = .uart ∧ (s.eng e).client = .noClient)) : afterRhr e v s = .ret s := by
  obtain hmode | ⟨hmode, hctx⟩ | ⟨hmode, hclient⟩ := h
  · simp only [afterRhr, hmode]
  · simp only [afterRhr, hmode, hctx]
  · simp only [afterRhr, hmode, uartReceive, hclient]

section
variable (hmode : (s.eng e).mode = .uart) {k : Nat} (x : Byte)
include hmode

theorem afterRhr_uart_client (hclient : (s.eng e).client = .uartClient k) :
    afterRhr e (x.zeroExtend 32) s = .ret (emit (.uartByte e x) s) := by
  simp only [afterRhr, hmode, uartReceive, hclient, byte_extract_zeroExtend]

theorem afterRhr_uart_mismatch (hclient : (s.eng e).client = .spiClient k) :
    afterRhr e v s = .stop (raise (.clientShapeMismatch e) s) := by
  simp only [afterRhr, hmode, uartReceive, hclient]

end

/-- With a byte waiting, the handler ends as the receive step of the mode does. -/
theorem exec_serHandleIrq_received (hs : s.AtEntry (.serHandleIrq e)) (hclk : (s.eng e).clkOn = true)
    (hrxrdy : (s.eng e).rxrdy = true) :
    ∃ o, ∀ u, (afterRhr e ((s.eng e).rhr.zeroExtend 32)
        (setCur o (s.setEng e { s.eng e with rxrdy := false }))).EndsIn u →
      exec (.serHandleIrq e) s = .next u := by
  have hcsr := (serHandleIrqSteps_csr (t := 0) hclk).trans (if_pos hrxrdy)
  refine ⟨some ⟨.serHandleIrq e, 1, 0⟩, fun u hu => ?_⟩
  refine (runHandler_entry hs).trans (congrArg _ ((runSteps_go _ hcsr).trans (runSteps_endsIn _ ?_)))
  rwa [serHandleIrqSteps_rhr (by simpa using hclk)]

/-- Settles O39: without a byte the first step completes the handler, with one the receive step ends it. -/
theorem serialHandler : Obligations.SerialHandler := by
  intro s e hs hclk t
  refine ⟨fun hempty => ?_, fun hrxrdy => ?_⟩
  · have hcsr := (serHandleIrqSteps_csr (t := 0) hclk).trans (if_neg (Bool.eq_false_iff.1 hempty))
    exact (runHandler_entry hs).trans (congrArg _ (runSteps_ret _ hcsr))
  · obtain ⟨o, ends⟩ := exec_serHandleIrq_received hs hclk hrxrdy
    have htaken : (setCur o t).eng e = { s.eng e with rxrdy := false } := setEng_eng_same ..
    refine ⟨fun hdrop => ends _ ?_, fun hmode => ⟨fun k hclient => ends _ ?_, fun k hclient => ends _ ?_⟩⟩
    · rw [afterRhr_drop (by rwa [htaken])]
      rfl
    · rw [afterRhr_uart_client (by rwa [htaken]) _ (by rwa [htaken])]
      rfl
    · rw [afterRhr_uart_mismatch (by rwa [htaken]) (by rwa [htaken])]
      rfl

/-! ## SER_DMA_DONE -/

section
variable (hgate : s.dmaGate = true) (hdma : (s.eng e).dma = some (c, q))
include hgate hdma

theorem serDmaDoneSteps_idr :
    serDmaDoneSteps e 0 t s = .go 1 0 (s.setChan c { s.chan c with imr := 0 }) := by
  simp only [serDmaDoneSteps, hdma, abortSteps_idr hgate]

theorem serDmaDoneSteps_tcr :
    serDmaDoneSteps e 1 t s =
      deliverWriteDone e (s.chan c).slot
        (giveBack (s.chan c).slot (s.setChan c { s.chan c with tcr := 0, slot := none })) := by
  simp only [serDmaDoneSteps, hdma, abortSteps_tcr hgate]

/-- An operation that goes on with the steps of SER_DMA_DONE from its step `j` on ends as the delivery does, from the machine
in which the attached channel is aborted. -/
theorem runSteps_serDmaDone {op : Instr} {body : Body} {j : Nat} (n : Nat)
    (hfirst : body j t s = (serDmaDoneSteps e 0 t s).shift j)
    (hsecond : ∀ o, body (1 + j) 0 (setCur o (s.setChan c { s.chan c with imr := 0 })) =
      (serDmaDoneSteps e 1 0 (setCur o (s.setChan c { s.chan c with imr := 0 }))).shift j) :
    ∃ o, ∀ u, (deliverWriteDone e (s.chan c).slot
        (setCur o (giveBack (s.chan c).slot (s.setChan c (s.chan c).aborted)))).EndsIn u →
      runSteps op body (n + 2) j t s = u := by
  rw [serDmaDoneSteps_idr hgate hdma] at hfirst
  refine ⟨some ⟨op, 1 + j, 0⟩, fun u hu => (runSteps_go _ hfirst).trans (runSteps_endsIn _ ?_)⟩
  rw [hsecond, serDmaDoneSteps_tcr (c := c) (q := q) (by simpa using hgate) (by simpa using hdma)]
  refine Micro.EndsIn.shift ?_ j
  simpa [Chan.aborted] using hu

end

section
variable {k : Nat} (b : Buf)

theorem deliverWriteDone_uart (h : (s.eng e).client = .uartClient k) :
    deliverWriteDone e (some b) s = .ret (emit (.uartWriteDone e b) s) := by
  simp only [deliverWriteDone, h]

theorem deliverWriteDone_no_client (h : (s.eng e).client = .noClient) :
    deliverWriteDone e (some b) s = .stop (raise (.noClient e b.id) s) := by
  simp only [deliverWriteDone, h]

theorem deliverWriteDone_mismatch (h : (s.eng e).client = .spiClient k) :
    deliverWriteDone e (some b) s = .stop (raise (.clientShapeMismatch e) s) := by
  simp only [deliverWriteDone, h]

end

/-- A channel's handler goes on with SER_DMA_DONE where the channel's client is an engine (R371). -/
theorem dmaHandleIrqSteps_engine (hclient : (s.chan c).client = some (.serEngine e)) (k : Nat) :
    dmaHandleIrqSteps c (k + 1) t s = (serDmaDoneSteps e k t s).shift 1 := by
  simp only [dmaHandleIrqSteps, hclient]

/-- Both entries of SER_DMA_DONE end as the delivery does. -/
theorem exec_serDmaDone (hs : s.AtEntry i) (hgate : s.dmaGate = true) (hdma : (s.eng e).dma = some (c, q))
    (hi : (∃ p, i = .serDmaDone e p) ∨
      ∃ d, i = .dmaHandleIrq d ∧ (s.chan d).client = some (.serEngine e) ∧
        (decodeSelector (s.chan d).psr).isSome = true) :
    ∃ o, ∀ u, (deliverWriteDone e (s.chan c).slot
        (setCur o (giveBack (s.chan c).slot (s.setChan c (s.chan c).aborted)))).EndsIn u → exec i s = .next u := by
  obtain ⟨p, rfl⟩ | ⟨d, rfl, hclient, hsel⟩ := hi
  · have same (m : Micro) : m = m.shift 0 := by cases m <;> rfl
    obtain ⟨o, ends⟩ := runSteps_serDmaDone (op := .serDmaDone e p) (body := serDmaDoneSteps e) (t := 0) hgate hdma
      (maxSteps - 2) (same _) fun _ => same _
    exact ⟨o, fun u hu => (runHandler_entry hs).trans (congrArg _ (ends u hu))⟩
  · obtain ⟨p, hp⟩ := Option.isSome_iff_exists.1 hsel
    have hfirst : dmaHandleIrqSteps d 0 0 s = .go 1 0 s :=
      (dmaHandleIrqSteps_mapped hgate hp).trans (by rw [dmaCallback, hclient])
    have hkept o : ((setCur o (s.setChan c { s.chan c with imr := 0 })).chan d).client = some (.serEngine e) :=
      (setChan_client (x := { s.chan c with imr := 0 }) rfl d).trans hclient
    obtain ⟨o, ends⟩ := runSteps_serDmaDone (s := setCur (some ⟨.dmaHandleIrq d, 1, 0⟩) s) (op := .dmaHandleIrq d)
      (body := dmaHandleIrqSteps d) (t := 0) (j := 1) hgate hdma (maxSteps - 3) (dmaHandleIrqSteps_engine (by exact hclient) 0)
      fun o => dmaHandleIrqSteps_engine (hkept o) 1
    refine ⟨o, fun u hu => (runHandler_entry hs).trans (congrArg _ ((runSteps_go _ hfirst).trans (ends u ?_)))⟩
    simpa using hu

/-- Settles O30: what the delivery makes of an empty slot, and of a buffer for each client. -/
theorem dmaDoneHandler : Obligations.DmaDoneHandler := by
  intro s i e c q hs hgate hdma hi t
  obtain ⟨o, ends⟩ := exec_serDmaDone hs hgate hdma hi
  refine ⟨fun hslot => ends _ ?_, fun b hslot => ⟨fun k hclient => ends _ ?_, fun hclient => ends _ ?_,
    fun k hclient => ends _ ?_⟩⟩ <;> rw [hslot]
  · rfl
  · rw [deliverWriteDone_uart b (by exact hclient)]
    rfl
  · rw [deliverWriteDone_no_client b (by exact hclient)]
    rfl
  · rw [deliverWriteDone_mismatch b (by exact hclient)]
    rfl

end Sys2Proof.Machine
end

section
/-! PROOF. Writes of serial CR (10_state R57 to R59; 44_serial_spi R315): what a word makes of the enables, the engine and
chip-select, and the events of a pin that changes. -/

namespace Sys2Proof.Machine

variable {s : State} {e : SerIx} {v : Word}

/-- The state after a list of events (R19, R63). -/
def State.emitAll (evs : List Event) (s : State) : State := { s with events := s.events ++ evs }

section
variable (evs : List Event) (s : State)

@[simp] theorem emitAll_bufs : (s.emitAll evs).bufs = s.bufs := rfl
@[simp] theorem emitAll_mem : (s.emitAll evs).mem = s.mem := rfl
@[simp] theorem emitAll_eng (e : SerIx) : (s.emitAll evs).eng e = s.eng e := rfl
@[simp] theorem emitAll_setCur (o : Option Cur) : (setCur o s).emitAll evs = setCur o (s.emitAll evs) := rfl
@[simp] theorem setEng_emitAll (e : SerIx) (x : Ser) : (s.emitAll evs).setEng e x = (s.setEng e x).emitAll evs := rfl
@[simp] theorem emitAll_nil : s.emitAll [] = s := by simp [State.emitAll]

end

/-- The events of a chip-select that was `old` and is `new`: the pin is low when chip-select is asserted (R57, R315). -/
def pinEvents (e : SerIx) (old new : Bool) : List Event := if new = old then [] else [.csPin e (!new)]

@[simp] theorem pinEvents_self (b : Bool) : pinEvents e b b = [] := if_pos rfl

theorem pinEvents_assert (b : Bool) : pinEvents e b true = if b then [] else [.csPin e false] := by cases b <;> rfl

theorem pinEvents_release (b : Bool) : pinEvents e b false = if b then [.csPin e true] else [] := by cases b <;> rfl

theorem crWrite_eq_emitAll {x : Ser} (hx : crEngine e v (s.eng e) = x) :
    crWrite e v s = (s.setEng e x).emitAll (pinEvents e (s.eng e).csAsserted x.csAsserted) := by
  subst hx
  rw [crWrite, pinEvents]
  split
  · exact (emitAll_nil _).symm
  · rfl

/-- What a CR write leaves in an enable: the open value where the word both enables and resets without disabling, else off by
the disable or the reset bit, on by the enable bit (R58, R59; log 12). -/
theorem enableAfter_eq : ∀ en dis rst clash old : Bool,
    enableAfter en dis rst clash old =
      if en && rst && !dis then clash else if dis || rst then false else if en then true else old := by
  decide

/-- Settles O17, by the engine's new value and the pin's events; the open values are the model's own (log 12). -/
theorem serialControlWrites : Obligations.SerialControlWrites := by
  intro e v
  refine ⟨Config.txenAfterClash e v, Config.rxenAfterClash e v, ?_⟩
  intro s hs hclk x openT openR cs
  have hclear (b c : Bool) : (b && !c) = if c then false else b := by cases c <;> simp
  rw [exec_regWrite_ser hs hclk, serWrite, crWrite_eq_emitAll rfl]
  simp only [crEngine, hclear]
  simp only [enableAfter_eq]
  rfl

end Sys2Proof.Machine
end

section
/-! PROOF. SER_INIT_SPI and the accessors (44_serial_spi R310, R325 to R332; 20_memory R95): one equation for each step of the
configuration, and the one bit of MR that an accessor of polarity or phase sets or returns. -/

namespace Sys2Proof.Machine

variable {s : State} {e : SerIx} {t : Word}

/-! ## The configuration -/

theorem serInitSpiSteps_brgr (hbusy : engineBusy s e = false) :
    serInitSpiSteps e 0 t s =
      .go 1 0 (s.setEng e { s.eng e with clkOn := true, mode := .spi, brgr := brgrWord Config.spiCd }) := by
  simp [serInitSpiSteps, hbusy, serWrite, setClock]

section
variable (hclk : (s.eng e).clkOn = true)
include hclk

theorem serInitSpiSteps_mr :
    serInitSpiSteps e 1 t s = .go 2 0 (s.setEng e { s.eng e with mr := 0x000408CE }) := by
  have hword : mrSpi = 0x000408CE := by decide
  simp [serInitSpiSteps, hclk, serWrite, hword]

theorem serInitSpiSteps_ttgr :
    serInitSpiSteps e 2 t s = .ret (emit (.ret .serInitSpi .unit) (s.setEng e { s.eng e with ttgr := 0 })) := by
  simp [serInitSpiSteps, hclk, serWrite, retWith]

end

/-- Settles O35, by the three writes, each to the engine that the one before left. -/
theorem initSpi : Obligations.InitSpi := by
  intro s e hs hbusy
  have ⟨_, _, hidle, _⟩ := hs
  rw [exec_eq_runHost rfl, runHost_ready hs, maxSteps, cpuBody, runSteps_go _ (serInitSpiSteps_brgr hbusy),
    runSteps_go _ (serInitSpiSteps_mr (by simp)), runSteps_ret _ (serInitSpiSteps_ttgr (by simp))]
  simp only [setCur_eng, setEng_setCur, setEng_eng_same, setEng_setEng, emit_setCur, finish_setCur]
  exact congrArg _ (finish_of_idle hidle)

/-! ## The accessors -/

theorem fieldMask_self : ∀ k : Fin 32, fieldMask k k = (1 : Word) <<< k.val := by decide

/-- FieldSet of one bit clears the bit and puts the new one in its place. -/
theorem fieldPut_bit (t : Word) (k : Fin 32) (v : Bool) :
    fieldPut t k k (bitWord v) = (t &&& ~~~((1 : Word) <<< k.val)) ||| ((if v then (1 : Word) else 0) <<< k.val) := by
  rw [fieldPut, fieldMask_self]
  cases v <;> simp [bitWord]

section
variable {i : Instr} {o : Op} (hs : s.Ready) (hclk : (s.eng e).clkOn = true)
include hs hclk

/-- An operation whose steps are FieldSet of one bit of MR changes that bit. -/
theorem exec_of_mr_bit_put {k : Fin 32} {v : Bool} (hi : i.op.hostMayIssue = true)
    (hbody : cpuBody i = fieldSetSteps o (serAddr e .mr) k k (bitWord v)) :
    exec i s = .next (emit (.ret o .unit) (s.setEng e { s.eng e with
      mr := ((s.eng e).mr &&& ~~~((1 : Word) <<< k.val)) ||| ((if v then (1 : Word) else 0) <<< k.val) })) := by
  have ⟨_, _, hidle, _⟩ := hs
  rw [exec_eq_runHost hi, runHost_ready hs, hbody, maxSteps, runSteps_fieldSet o (regAt_serAddr e .mr) i _ hidle hclk,
    ← fieldPut_bit]
  rfl

/-- An operation that reads one bit of MR returns it and changes nothing else. -/
theorem exec_of_mr_bit_get {k : Nat} (hi : i.op.hostMayIssue = true) (hbody : cpuBody i = mrBitSteps o e k) :
    exec i s = .next (emit (.ret o (.word (bitWord ((s.eng e).mr.getLsbD k)))) s) := by
  have hread : regRead (serAddr e .mr) s = .done (s.eng e).mr s := regRead_done (regAt_serAddr e .mr) hclk
  refine exec_of_step_ret hi hs ?_ rfl
  rw [hbody, mrBitSteps, hread, andThen_done, retWith]

end

/-- Settles O45: two operations put one bit of MR, two return one, and the step of the other four is their Ret. -/
theorem spiAccessors : Obligations.SpiAccessors := by
  intro s e v rate cs hs put
  refine ⟨fun hclk => ⟨?_, ?_, ?_, ?_⟩, ?_, ?_, ?_, ?_⟩
  · exact exec_of_mr_bit_put (k := 16) hs hclk rfl rfl
  · exact exec_of_mr_bit_put (k := 8) hs hclk rfl rfl
  · exact exec_of_mr_bit_get hs hclk rfl rfl
  · exact exec_of_mr_bit_get hs hclk rfl rfl
  · exact exec_of_step_ret rfl hs rfl rfl
  · exact exec_of_step_ret rfl hs rfl rfl
  · exact exec_of_step_ret rfl hs rfl rfl
  · exact exec_of_step_ret rfl hs rfl rfl

end Sys2Proof.Machine
end

section
/-! PROOF. SER_READ_WRITE_BYTES (44_serial_spi R313 to R316; 20_memory R96; 60_exceptions R356): its checks, and one equation
for each step of a valid request. -/

namespace Sys2Proof.Machine

variable {s : State} {e : SerIx} {w : Buf} {r : Option Buf} {len t : Word} {b : Byte} {l : BufTable} {o : Owner}

/-! ## The checks -/

theorem spiBuffersOk_iff :
    spiBuffersOk w r s = true ↔
      bufOwner s.bufs w.id = .host ∧ ∀ rb, r = some rb → bufOwner s.bufs rb.id = .host ∧ rb.id ≠ w.id := by
  cases r <;> simp [spiBuffersOk]

theorem spiLengthOk_iff :
    spiLengthOk w r len = true ↔
      1 ≤ len.toNat ∧ len.toNat ≤ w.cap ∧ ∀ rb, r = some rb → len.toNat ≤ rb.cap := by
  cases r <;> simp [spiLengthOk, and_assoc]

theorem setOwners_eng : (setOwners w r o s).eng e = s.eng e := by rw [setOwners_eq]; rfl

theorem serReadWriteBytesSteps_not_owned (howned : spiBuffersOk w r s = false) :
    serReadWriteBytesSteps e w r len 0 t s = .stop (refuse .bufferNotHostOwned s) := by
  simp [serReadWriteBytesSteps, howned]

section
variable (howned : spiBuffersOk w r s = true)
include howned

theorem serReadWriteBytesSteps_wrong_mode (hmode : (s.eng e).mode ≠ .spi) :
    serReadWriteBytesSteps e w r len 0 t s = .stop (raise (.wrongMode e .serReadWriteBytes) s) := by
  simp [serReadWriteBytesSteps, howned, hmode]

variable (hmode : (s.eng e).mode = .spi)
include hmode

theorem serReadWriteBytesSteps_outstanding (hctx : (s.eng e).ctx.isSome = true) :
    serReadWriteBytesSteps e w r len 0 t s = .stop (raise (.transferOutstanding e) s) := by
  simp [serReadWriteBytesSteps, howned, hmode, hctx]

variable (hctx : (s.eng e).ctx = none)
include hctx

theorem serReadWriteBytesSteps_bad_length (hlen : spiLengthOk w r len = false) :
    serReadWriteBytesSteps e w r len 0 t s = .stop (raise (.spiLengthInvalid e len) s) := by
  simp [serReadWriteBytesSteps, howned, hmode, hctx, hlen]

theorem serReadWriteBytesSteps_ier (hlen : spiLengthOk w r len = true) (hclk : (s.eng e).clkOn = true) :
    serReadWriteBytesSteps e w r len 0 t s =
      .go 1 0 ((setOwners w r (.ser e) s).setEng e { s.eng e with imr := (s.eng e).imr ||| 1 }) := by
  have hmask : siRxrdy &&& serIntBits = 1 := by decide
  simp [serReadWriteBytesSteps, howned, hmode, hctx, hlen, setOwners_eng, hclk, serWrite, hmask]

end

/-- Settles O42: each check ends the first step, before its access. -/
theorem exchangeChecks : Obligations.ExchangeChecks := by
  intro s e w r len hs owned fits
  have howned : spiBuffersOk w r s = true ↔ owned := spiBuffersOk_iff
  have hfits : spiLengthOk w r len = true ↔ fits := spiLengthOk_iff
  rw [← howned, ← hfits, Bool.not_eq_true, Bool.not_eq_true]
  exact ⟨fun h => exec_of_step_stop rfl hs (serReadWriteBytesSteps_not_owned (t := 0) h),
    fun h hmode => exec_of_step_stop rfl hs (serReadWriteBytesSteps_wrong_mode (t := 0) h hmode),
    fun h hmode hctx => exec_of_step_stop rfl hs (serReadWriteBytesSteps_outstanding (t := 0) h hmode hctx),
    fun h hmode hctx hlen => exec_of_step_stop rfl hs (serReadWriteBytesSteps_bad_length (t := 0) h hmode hctx hlen)⟩

/-! ## The buffers of the exchange -/

theorem mem_bufSet_self (l : BufTable) (w : Buf) (ho : o ≠ .host) : ⟨w, o⟩ ∈ bufSet l w o := by
  induction l with
  | nil => simp [bufSet, ho]
  | cons f l ih =>
    rw [bufSet]
    split_ifs
    · exact List.mem_cons_self
    · exact List.mem_cons_self
    · exact List.mem_cons_of_mem f ih

theorem mem_bufSet_other {f : BufEntry} (hf : f ∈ l) (hid : f.buf.id ≠ w.id) : f ∈ bufSet l w o := by
  induction l with
  | nil => exact absurd hf List.not_mem_nil
  | cons g l ih =>
    rw [List.mem_cons] at hf
    rw [bufSet]
    split_ifs with hlt hhost heq
    · exact List.mem_cons.2 hf
    · exact List.mem_cons_of_mem _ (List.mem_cons.2 hf)
    · exact hf.resolve_left fun hg => hid (hg ▸ heq.symm)
    · exact List.mem_cons_of_mem _ (hf.resolve_left fun hg => hid (hg ▸ heq.symm))
    · exact List.mem_cons.2 (hf.imp_right ih)

/-- The engine owns the write buffer of its exchange, whatever the table was. -/
theorem ownsAddr_setOwners {a : Word} (ho : o ≠ .host) (hdistinct : ∀ rb, r = some rb → rb.id ≠ w.id)
    (ha : bufCovers w a = true) : ownsAddr (setOwners w r o s).bufs o a = true := by
  rw [ownsAddr, List.any_eq_true]
  refine ⟨⟨w, o⟩, ?_, by simp [ha]⟩
  have hself := mem_bufSet_self s.bufs w ho
  cases r with
  | none => exact hself
  | some rb => exact mem_bufSet_other hself (hdistinct rb rfl).symm

/-! ## The steps of a valid request -/

theorem setEng_advance (n : Nat) (x : Ser) : (s.advance n).setEng e x = (s.setEng e x).advance n := rfl

theorem serWrite_thr_empty (h : (s.eng e).thrFull = false) :
    serWrite e .thr (b.zeroExtend 32) s = s.setEng e { s.eng e with thr := b, thrFull := true } := by
  simp [serWrite, thrWrite, h, byte_extract_zeroExtend]

theorem serWrite_thr_full (h : (s.eng e).thrFull = true) :
    serWrite e .thr (b.zeroExtend 32) s =
      (s.setEng e { s.eng e with
        thr := if Config.drawBool s.sched.draws then b else (s.eng e).thr, thrFull := true }).advance 1 := by
  simp [serWrite, thrWrite, h, byte_extract_zeroExtend]

theorem crEngine_txen_rxen (x : Ser) : crEngine e (crTxen ||| crRxen) x = { x with txen := true, rxen := true } := by
  simp [crEngine, crTxen, crRxen, enableAfter]

theorem crEngine_fcs (x : Ser) : crEngine e crFcs x = { x with csAsserted := true } := by
  simp [crEngine, crFcs, enableAfter]

section
variable (hclk : (s.eng e).clkOn = true)
include hclk

theorem serReadWriteBytesSteps_enable :
    serReadWriteBytesSteps e w r len 1 t s = .go 2 0 (s.setEng e { s.eng e with txen := true, rxen := true }) := by
  simp [serReadWriteBytesSteps, hclk, serWrite, crWrite_eq_emitAll (crEngine_txen_rxen _)]

theorem serReadWriteBytesSteps_fcs :
    serReadWriteBytesSteps e w r len 2 t s =
      .go 3 0 ((s.setEng e { s.eng e with csAsserted := true }).emitAll (pinEvents e (s.eng e).csAsserted true)) := by
  simp [serReadWriteBytesSteps, hclk, serWrite, crWrite_eq_emitAll (crEngine_fcs _)]

theorem serReadWriteBytesSteps_thr :
    serReadWriteBytesSteps e w r len 4 t s =
      .ret (emit (.ret .serReadWriteBytes .unit) ((serWrite e .thr t s).setEng e
        { (serWrite e .thr t s).eng e with ctx := some ⟨w, r, len.toNat, 0⟩ })) := by
  simp [serReadWriteBytesSteps, hclk, retWith]

end

theorem serReadWriteBytesSteps_read (howns : ownsAddr s.bufs (.ser e) w.addr = true) :
    serReadWriteBytesSteps e w r len 3 t s = .go 4 ((memRead s.mem w.addr.toNat).zeroExtend 32) s := by
  simp [serReadWriteBytesSteps, byteRead, howns]

/-- The machine once an exchange is set up and its first byte is still to come: the owners, the receive interrupt, both
enables and chip-select (R313, R315). -/
def State.selected (s : State) (e : SerIx) (w : Buf) (r : Option Buf) : State :=
  ((setOwners w r (.ser e) s).setEng e { s.eng e with
    imr := (s.eng e).imr ||| 1, txen := true, rxen := true, csAsserted := true }).emitAll
      (pinEvents e (s.eng e).csAsserted true)

theorem selected_eng : (s.selected e w r).eng e = { s.eng e with
    imr := (s.eng e).imr ||| 1, txen := true, rxen := true, csAsserted := true } := setEng_eng_same ..

theorem selected_setEng (y : Ser) :
    (s.selected e w r).setEng e y =
      { s.setEng e y with
        bufs := (setOwners w r (.ser e) s).bufs
        events := s.events ++ if (s.eng e).csAsserted then [] else [.csPin e false] } := by
  rw [State.selected, setEng_emitAll, setEng_setEng, pinEvents_assert]
  cases r <;> rfl

/-- A valid request sets the exchange up, writes the first byte to THR and stores the context. -/
theorem exec_serReadWriteBytes (hs : s.Ready) (howned : spiBuffersOk w r s = true) (hmode : (s.eng e).mode = .spi)
    (hclk : (s.eng e).clkOn = true) (hctx : (s.eng e).ctx = none) (hlen : spiLengthOk w r len = true) :
    let u := serWrite e .thr ((memRead s.mem w.addr.toNat).zeroExtend 32) (s.selected e w r)
    exec (.serReadWriteBytes e w r len) s =
      .next (emit (.ret .serReadWriteBytes .unit) (u.setEng e { u.eng e with ctx := some ⟨w, r, len.toNat, 0⟩ })) := by
  have ⟨_, _, hidle, _⟩ := hs
  have ⟨hpos, hcap, _⟩ := spiLengthOk_iff.1 hlen
  have hcovers : bufCovers w w.addr = true := by
    simp only [bufCovers, Bool.and_eq_true, decide_eq_true_eq]
    omega
  have howns : ownsAddr (setOwners w r (.ser e) s).bufs (.ser e) w.addr = true :=
    ownsAddr_setOwners nofun (fun rb hrb => ((spiBuffersOk_iff.1 howned).2 rb hrb).2) hcovers
  have hmem : (setOwners w r (.ser e) s).mem = s.mem := setOwners_mem w r _ s
  rw [exec_eq_runHost rfl, runHost_ready hs, maxSteps, cpuBody,
    runSteps_go _ (serReadWriteBytesSteps_ier howned hmode hctx hlen hclk),
    runSteps_go _ (serReadWriteBytesSteps_enable (by simpa using hclk)),
    runSteps_go _ (serReadWriteBytesSteps_fcs (by simpa using hclk)),
    runSteps_go _ (serReadWriteBytesSteps_read (by simpa using howns)),
    runSteps_ret _ (serReadWriteBytesSteps_thr (by simpa using hclk))]
  simp only [setCur_eng, setEng_setCur, setEng_eng_same, setEng_setEng, emit_setCur, finish_setCur, emitAll_setCur,
    setCur_setCur, setCur_mem, emitAll_mem, setEng_mem, hmem, serWrite_setCur]
  refine congrArg _ (finish_of_idle ?_)
  have ⟨hcur, _⟩ := regWriteEffect_frame (.ser e .thr) ((memRead s.mem w.addr.toNat).zeroExtend 32) (s.selected e w r)
  exact hcur.trans ((setOwners_cur w r (.ser e) s).trans hidle)

/-- Settles O41: the byte goes to an empty THR, or a draw says which of two bytes is lost; the rest is `State.selected`. -/
theorem exchangeStart : Obligations.ExchangeStart := by
  intro s e w r len hs hw hr hmode hclk hctx hpos hcap hrcap x started
  have hexec := exec_serReadWriteBytes hs (spiBuffersOk_iff.2 ⟨hw, hr⟩) hmode hclk hctx
    (spiLengthOk_iff.2 ⟨hpos, hcap, hrcap⟩)
  refine ⟨fun hempty => ?_, fun hfull => ⟨Config.drawBool (s.selected e w r).sched.draws, ?_⟩⟩
  · rw [serWrite_thr_empty (by rw [selected_eng]; exact hempty)] at hexec
    rw [hexec, setEng_eng_same, setEng_setEng, selected_eng, selected_setEng]
    cases r <;> rfl
  · rw [serWrite_thr_full (by rw [selected_eng]; exact hfull)] at hexec
    rw [hexec, advance_eng, setEng_eng_same, setEng_advance, setEng_setEng, selected_eng, selected_setEng]
    cases r <;> rfl

end Sys2Proof.Machine
end

section
/-! PROOF. The receive step of an exchange (44_serial_spi R320, R321, R315; 20_memory R96; 43_serial_uart R282): one equation
for each step of SER_HANDLE_IRQ in an exchange, the state once the received byte is in its place, and from there the steps of a
middle byte and those of the last one. -/

namespace Sys2Proof.Machine

variable {s : State} {e : SerIx} {x : SpiCtx} {t v : Word} {b : Byte} {rb : Buf} {m : Mem} {k : Nat}

/-! ## The received byte -/

/-- Where the cursor points in a buffer of the exchange: the received byte's place in the read buffer, and in the write buffer
that of the byte to send (R320). -/
abbrev SpiCtx.place (x : SpiCtx) (buf : Buf) : Word := buf.addr + BitVec.ofNat 32 x.cursor

/-- Memory once the byte is stored at the cursor, or dropped without a read buffer (R320). -/
def SpiCtx.stored (x : SpiCtx) (b : Byte) (m : Mem) : Mem :=
  match x.r with
  | some rb => memWrite m (x.place rb).toNat b
  | none => m

theorem stored_drop (hr : x.r = none) : x.stored b m = m := by simp only [SpiCtx.stored, hr]

theorem stored_some (hr : x.r = some rb) : x.stored b m = memWrite m (x.place rb).toNat b := by
  simp only [SpiCtx.stored, hr]

theorem memRead_stored (hwf : Memory.wf m = true) (rb : Buf) (hr : x.r = some rb) :
    memRead (x.stored b m) (x.place rb).toNat = b ∧
      ∀ a, a ≠ (x.place rb).toNat → memRead (x.stored b m) a = memRead m a := by
  rw [stored_some hr]
  exact ⟨memRead_memWrite_same m _ b hwf, fun a ha => memRead_memWrite_other m b ha⟩

/-- The machine once the received byte is taken from RHR and in its place. -/
def State.byteTaken (s : State) (e : SerIx) (x : SpiCtx) : State :=
  { s.setEng e { s.eng e with rxrdy := false } with mem := x.stored (s.eng e).rhr s.mem }

theorem byteTaken_eng : (s.byteTaken e x).eng e = { s.eng e with rxrdy := false } := setEng_eng_same ..

theorem byteTaken_setEng (y : Ser) :
    (s.byteTaken e x).setEng e y = { s.setEng e y with mem := x.stored (s.eng e).rhr s.mem } := by
  simp [State.byteTaken, State.setEng]

/-- The machine once the received byte is in its place and the cursor points to the next one (R320). -/
def State.cursorMoved (s : State) (e : SerIx) (x : SpiCtx) : State :=
  (s.byteTaken e x).setEng e { s.eng e with rxrdy := false, ctx := some { x with cursor := x.cursor + 1 } }

theorem cursorMoved_eng :
    (s.cursorMoved e x).eng e = { s.eng e with rxrdy := false, ctx := some { x with cursor := x.cursor + 1 } } :=
  setEng_eng_same ..

theorem cursorMoved_setEng (y : Ser) :
    (s.cursorMoved e x).setEng e y = { s.setEng e y with mem := x.stored (s.eng e).rhr s.mem } := by
  rw [State.cursorMoved, setEng_setEng, byteTaken_setEng]

/-- The machine once the last byte is in its place, chip-select is released, both directions are disabled and the context is
gone (R320). -/
def State.exchangeClosed (s : State) (e : SerIx) (x : SpiCtx) : State :=
  ((s.byteTaken e x).setEng e { s.eng e with
    rxrdy := false, ctx := none, csAsserted := false, txen := false, rxen := false }).emitAll
      (pinEvents e (s.eng e).csAsserted false)

theorem exchangeClosed_client : ((s.exchangeClosed e x).eng e).client = (s.eng e).client := by
  rw [State.exchangeClosed, emitAll_eng, setEng_eng_same]

/-! ## The steps -/

theorem spiAdvance_last (h : x.cursor = x.len - 1) : spiAdvance e x s = .go 3 0 s := if_pos h

theorem spiAdvance_middle (h : x.cursor + 1 < x.len) :
    spiAdvance e x s = .go 5 0 (s.setEng e { s.eng e with ctx := some { x with cursor := x.cursor + 1 } }) :=
  if_neg (by omega)

section
variable (hctx : (s.eng e).ctx = some x)
include hctx

theorem afterRhr_exchange (hmode : (s.eng e).mode = .spi) :
    afterRhr e v s = if x.r.isSome then .go 2 v s else spiAdvance e x s := by
  simp only [afterRhr, hmode, hctx]

theorem serHandleIrqSteps_store (hr : x.r = some rb) (howns : ownsAddr s.bufs (.ser e) (x.place rb) = true) :
    serHandleIrqSteps e 2 (b.zeroExtend 32) s = spiAdvance e x (s.storeByte (x.place rb) b) := by
  simp only [serHandleIrqSteps, hctx, hr, byteWrite, howns, if_true, andThen_done, byte_extract_zeroExtend]
  rfl

theorem serHandleIrqSteps_store_outside (hr : x.r = some rb) (howns : ownsAddr s.bufs (.ser e) (x.place rb) = false) :
    serHandleIrqSteps e 2 t s = .stop (raise (.dmaOutOfBuffer (.ser e) (x.place rb)) s) := by
  simp [serHandleIrqSteps, hctx, hr, byteWrite, howns]

theorem serHandleIrqSteps_read (howns : ownsAddr s.bufs (.ser e) (x.place x.w) = true) :
    serHandleIrqSteps e 5 t s = .go 6 ((memRead s.mem (x.place x.w).toNat).zeroExtend 32) s := by
  simp [serHandleIrqSteps, hctx, byteRead, howns]

theorem serHandleIrqSteps_read_outside (howns : ownsAddr s.bufs (.ser e) (x.place x.w) = false) :
    serHandleIrqSteps e 5 t s = .stop (raise (.dmaOutOfBuffer (.ser e) (x.place x.w)) s) := by
  simp [serHandleIrqSteps, hctx, byteRead, howns]

end

theorem crEngine_rcs (y : Ser) : crEngine e crRcs y = { y with csAsserted := false } := by
  simp [crEngine, crRcs, enableAfter]

theorem crEngine_txdis_rxdis (y : Ser) :
    crEngine e (crTxdis ||| crRxdis) y = { y with txen := false, rxen := false } := by
  simp [crEngine, crTxdis, crRxdis, enableAfter]

section
variable (hclk : (s.eng e).clkOn = true)
include hclk

theorem serHandleIrqSteps_rcs :
    serHandleIrqSteps e 3 t s =
      .go 4 0 ((s.setEng e { s.eng e with csAsserted := false }).emitAll (pinEvents e (s.eng e).csAsserted false)) := by
  simp [serHandleIrqSteps, hclk, serWrite, crWrite_eq_emitAll (crEngine_rcs _)]

theorem serHandleIrqSteps_disable (hctx : (s.eng e).ctx = some x) :
    serHandleIrqSteps e 4 t s =
      spiComplete e x (s.setEng e { s.eng e with txen := false, rxen := false, ctx := none }) := by
  simp [serHandleIrqSteps, hclk, hctx, serWrite, crWrite_eq_emitAll (crEngine_txdis_rxdis _)]

theorem serHandleIrqSteps_thr : serHandleIrqSteps e 6 t s = .ret (serWrite e .thr t s) := by
  simp [serHandleIrqSteps, hclk]

end

/-! ## The byte goes to its place -/

section
variable (hs : s.AtEntry (.serHandleIrq e)) (hclk : (s.eng e).clkOn = true) (hrxrdy : (s.eng e).rxrdy = true)
  (hmode : (s.eng e).mode = .spi) (hctx : (s.eng e).ctx = some x)
include hs hclk hrxrdy hmode hctx

/-- The handler reads RHR, and goes on as the exchange has a read buffer or not. -/
theorem exec_serHandleIrq_spi :
    ∃ o, exec (.serHandleIrq e) s = .next (runSteps (.serHandleIrq e) (serHandleIrqSteps e) 15 1 0 (setCur o s)) ∧
      serHandleIrqSteps e 1 0 (setCur o s) =
        if x.r.isSome then .go 2 ((s.eng e).rhr.zeroExtend 32) (setCur o (s.setEng e { s.eng e with rxrdy := false }))
        else spiAdvance e x (setCur o (s.setEng e { s.eng e with rxrdy := false })) := by
  have hcsr := (serHandleIrqSteps_csr (t := 0) hclk).trans (if_pos hrxrdy)
  refine ⟨some ⟨.serHandleIrq e, 1, 0⟩, (runHandler_entry hs).trans (congrArg _ (runSteps_go _ hcsr)), ?_⟩
  rw [serHandleIrqSteps_rhr (by simpa using hclk), setCur_eng, setEng_setCur]
  exact afterRhr_exchange (by simpa using hctx) (by simpa using hmode)

theorem exec_serHandleIrq_store_outside (hr : x.r = some rb)
    (howns : ownsAddr s.bufs (.ser e) (x.place rb) = false) :
    exec (.serHandleIrq e) s =
      .next (raise (.dmaOutOfBuffer (.ser e) (x.place rb)) (s.setEng e { s.eng e with rxrdy := false })) := by
  obtain ⟨o, hexec, hstep⟩ := exec_serHandleIrq_spi hs hclk hrxrdy hmode hctx
  rw [hr] at hstep
  rw [hexec, runSteps_go _ hstep,
    runSteps_stop _ (serHandleIrqSteps_store_outside (x := x) (by simpa using hctx) hr (by simpa using howns)),
    raise_setCur, raise_setCur]

/-- With its place in a buffer of the engine's, or no read buffer, the received byte is taken, and the step advances. -/
theorem exec_serHandleIrq_byteTaken
    (howns : ∀ rb, x.r = some rb → ownsAddr s.bufs (.ser e) (x.place rb) = true) :
    ∃ n k t u o, exec (.serHandleIrq e) s = .next (runSteps (.serHandleIrq e) (serHandleIrqSteps e) (n + 3) k t u) ∧
      serHandleIrqSteps e k t u = spiAdvance e x (setCur o (s.byteTaken e x)) := by
  obtain ⟨o, hexec, hstep⟩ := exec_serHandleIrq_spi hs hclk hrxrdy hmode hctx
  cases hr : x.r with
  | none =>
    rw [hr] at hstep
    refine ⟨12, _, _, _, o, hexec, hstep.trans ?_⟩
    rw [State.byteTaken, stored_drop hr]
    rfl
  | some rb =>
    rw [hr] at hstep
    refine ⟨11, 2, _, _, some ⟨.serHandleIrq e, 2, (s.eng e).rhr.zeroExtend 32⟩,
      hexec.trans (congrArg _ (runSteps_go _ hstep)), ?_⟩
    rw [serHandleIrqSteps_store (x := x) (by simpa using hctx) hr (by simpa using howns rb hr), State.byteTaken,
      stored_some hr]
    rfl

section
variable (howns : ∀ rb, x.r = some rb → ownsAddr s.bufs (.ser e) (x.place rb) = true)
include howns

/-- Before the last byte the cursor advances, and the next byte is still to be read. -/
theorem exec_serHandleIrq_middle (hlen : x.cursor + 1 < x.len) :
    ∃ n o, exec (.serHandleIrq e) s =
      .next (runSteps (.serHandleIrq e) (serHandleIrqSteps e) (n + 2) 5 0 (setCur o (s.cursorMoved e x))) := by
  obtain ⟨n, k, t, u, o, hexec, hstep⟩ := exec_serHandleIrq_byteTaken hs hclk hrxrdy hmode hctx howns
  rw [spiAdvance_middle hlen, setCur_eng, byteTaken_eng, setEng_setCur] at hstep
  rw [hexec, runSteps_go _ hstep, setCur_setCur]
  exact ⟨n, _, rfl⟩

theorem exec_serHandleIrq_read_outside (hlen : x.cursor + 1 < x.len)
    (hout : ownsAddr s.bufs (.ser e) (x.w.addr + BitVec.ofNat 32 (x.cursor + 1)) = false) :
    exec (.serHandleIrq e) s =
      .next (raise (.dmaOutOfBuffer (.ser e) (x.w.addr + BitVec.ofNat 32 (x.cursor + 1))) (s.cursorMoved e x)) := by
  obtain ⟨n, o, hexec⟩ := exec_serHandleIrq_middle hs hclk hrxrdy hmode hctx howns hlen
  have hctx' : ((setCur o (s.cursorMoved e x)).eng e).ctx = some { x with cursor := x.cursor + 1 } := by
    rw [setCur_eng, cursorMoved_eng]
  rw [hexec, runSteps_stop _ (serHandleIrqSteps_read_outside hctx' hout), raise_setCur]

/-- The next byte is read where the cursor now points, from memory with the received byte in its place, and goes to THR. -/
theorem exec_serHandleIrq_next_byte (hlen : x.cursor + 1 < x.len)
    (hin : ownsAddr s.bufs (.ser e) (x.w.addr + BitVec.ofNat 32 (x.cursor + 1)) = true) :
    exec (.serHandleIrq e) s = .next (finish (serWrite e .thr
      ((memRead (x.stored (s.eng e).rhr s.mem) (x.w.addr + BitVec.ofNat 32 (x.cursor + 1)).toNat).zeroExtend 32)
        (s.cursorMoved e x))) := by
  obtain ⟨n, o, hexec⟩ := exec_serHandleIrq_middle hs hclk hrxrdy hmode hctx howns hlen
  have hctx' : ((setCur o (s.cursorMoved e x)).eng e).ctx = some { x with cursor := x.cursor + 1 } := by
    rw [setCur_eng, cursorMoved_eng]
  rw [hexec, runSteps_go _ (serHandleIrqSteps_read hctx' hin),
    runSteps_ret _ (serHandleIrqSteps_thr (by simpa [cursorMoved_eng] using hclk)), setCur_setCur, serWrite_setCur,
    finish_setCur]
  rfl

/-- At the last byte the exchange ends as its delivery does. -/
theorem exec_serHandleIrq_last (hlast : x.cursor = x.len - 1) :
    ∃ o, ∀ v, (spiComplete e x (setCur o (s.exchangeClosed e x))).EndsIn v → exec (.serHandleIrq e) s = .next v := by
  obtain ⟨n, k, t, u, o, hexec, hstep⟩ := exec_serHandleIrq_byteTaken hs hclk hrxrdy hmode hctx howns
  rw [spiAdvance_last hlast] at hstep
  rw [hexec, runSteps_go _ hstep, setCur_setCur,
    runSteps_go _ (serHandleIrqSteps_rcs (by simpa [byteTaken_eng] using hclk))]
  refine ⟨some ⟨.serHandleIrq e, 4, 0⟩, fun v hv => congrArg _ (runSteps_endsIn _ ?_)⟩
  rw [serHandleIrqSteps_disable (x := x) (by simpa [byteTaken_eng] using hclk) (by simpa [byteTaken_eng] using hctx)]
  simpa [byteTaken_eng, State.exchangeClosed] using hv

end

end

/-- Settles O43: the store outside a buffer, and then the read of the next byte and its write to THR, from the machine in which
the received byte is in its place. -/
theorem exchangeMiddle : Obligations.ExchangeMiddle := by
  intro s e x hs hclk hrxrdy hmode hctx
  refine ⟨fun rb hr howns => exec_serHandleIrq_store_outside hs hclk hrxrdy hmode hctx hr howns,
    fun howns hlen hwf => ⟨x.stored (s.eng e).rhr s.mem, fun hr => stored_drop hr, memRead_stored hwf, ?_⟩⟩
  intro a y
  have hnext := exec_serHandleIrq_next_byte hs hclk hrxrdy hmode hctx howns hlen
  have hthr : ((s.cursorMoved e x).eng e).thrFull = (s.eng e).thrFull := by rw [cursorMoved_eng]
  refine ⟨fun hout => ?_, fun hin hempty => ?_, fun hin hfull => ⟨Config.drawBool s.sched.draws, ?_⟩⟩
  · rw [exec_serHandleIrq_read_outside hs hclk hrxrdy hmode hctx howns hlen hout, State.cursorMoved, byteTaken_setEng]
  · rw [hnext hin, serWrite_thr_empty (hthr.trans hempty), cursorMoved_eng, cursorMoved_setEng]
    rfl
  · have hy : y.thrFull = true := hfull
    rw [hnext hin, serWrite_thr_full (hthr.trans hfull), cursorMoved_eng, cursorMoved_setEng, hy]
    rfl

/-! ## The delivery -/

section
variable (x : SpiCtx)

theorem spiComplete_client (h : (s.eng e).client = .spiClient k) :
    spiComplete e x s = .ret (emit (.spiDone e x.w x.r x.len) (setOwners x.w x.r .host s)) := by
  simp [spiComplete, setOwners_eng, h]

theorem spiComplete_no_client (h : (s.eng e).client = .noClient) :
    spiComplete e x s = .stop (raise (.noClient e x.w.id) (setOwners x.w x.r .host s)) := by
  simp [spiComplete, setOwners_eng, h]

theorem spiComplete_mismatch (h : (s.eng e).client = .uartClient k) :
    spiComplete e x s = .stop (raise (.clientShapeMismatch e) (setOwners x.w x.r .host s)) := by
  simp [spiComplete, setOwners_eng, h]

end

/-- Settles O44: what the delivery makes of each client. -/
theorem exchangeEnd : Obligations.ExchangeEnd := by
  intro s e x hs hclk hrxrdy hmode hctx hlast hwf howns
  refine ⟨x.stored (s.eng e).rhr s.mem, fun hr => stored_drop hr, memRead_stored hwf, ?_⟩
  intro t
  obtain ⟨o, ends⟩ := exec_serHandleIrq_last hs hclk hrxrdy hmode hctx howns hlast
  have hback : setOwners x.w x.r .host (setCur o (s.exchangeClosed e x)) = setCur o t := by
    rw [setOwners_setCur, setOwners_eq, State.exchangeClosed, byteTaken_setEng, pinEvents_release]
    rfl
  refine ⟨fun k hclient => ends _ ?_, fun hclient => ends _ ?_, fun k hclient => ends _ ?_⟩
  · rw [spiComplete_client x (by exact exchangeClosed_client.trans hclient), hback]
    rfl
  · rw [spiComplete_no_client x (by exact exchangeClosed_client.trans hclient), hback]
    rfl
  · rw [spiComplete_mismatch x (by exact exchangeClosed_client.trans hclient), hback]
    rfl

end Sys2Proof.Machine
end

section
/-! PROOF. Machines that do not go on (00_scope R31; 42 R242; R351, R360, R362, R372): the step of a refused and of a halted
run, an operation that finds the CPU agent busy with another one, and the fault trap. -/

namespace Sys2Proof.Machine

variable {s : State} {i : Instr} {c : Cur}

theorem step_refused (hb : s.sched.booted = true) (hr : s.refused = true) : step s = .refused .runEnded := by
  simp [step, stepOnce, hb, hr]

/-- With a fault recorded, the step is a halted one. -/
theorem step_eq_haltedStep (hb : s.sched.booted = true) (hr : s.refused = false) (hf : s.fault.isSome = true) :
    step s = haltedStep s := by
  simp [step, stepOnce, hb, hr, hf]

theorem haltedStep_host {ws : List Word} {b : Option Nat} {rest : List Turn} (hin : s.sched.input = .host ws b :: rest) :
    haltedStep s = .next (refuse .halted (s.popTurn rest)) := by
  simp [haltedStep, hin]

theorem haltedStep_not_host (hin : ∀ ws b rest, s.sched.input ≠ .host ws b :: rest) : haltedStep s = .fault .halted := by
  unfold haltedStep
  split
  · next ws b rest h => exact absurd h (hin ws b rest)
  · rfl

/-! ## A busy CPU agent -/

section
variable {op : Instr} {body : Body}

theorem runHost_busy (hs : s.Running) (hc : s.cur = some c) (hop : c.op ≠ op) : runHost op body s = .next s := by
  rw [runHost_unrefused hs.1, hs.2, runCpu_busy hc hop]
  rfl

theorem runHandler_busy (hs : s.Running) (hc : s.cur = some c) (hop : c.op ≠ op) : runHandler op body s = .next s := by
  simp [runHandler, hs.1, hs.2, hc, runCpu_busy hc hop]

end

/-- No line is dispatched while an operation is in progress (R242). -/
theorem exec_irqDispatch_busy {l : Line} (hs : s.Running) (hc : s.cur = some c) : exec (.irqDispatch l) s = .next s :=
  exec_irqDispatch_not_enabled hs fun h => by
    obtain ⟨hidle, _, _⟩ := dispatchEnabled_iff.1 h
    exact Option.some_ne_none c (hc.symm.trans hidle)

/-- Every instruction but a hardware agent's step is a host operation, a handler or a dispatch. -/
theorem exec_busy (hs : s.Running) (hc : s.cur = some c) (hop : c.op ≠ i)
    (hi : i.op ∉ [Op.evDmaStep, .evSerLoad, .evSerShift, .evSerRxArrive, .evHardFault]) : exec i s = .next s := by
  cases i with
  | dmaHandleIrq | serHandleIrq | serDmaDone => exact runHandler_busy hs hc hop
  | irqDispatch l => exact exec_irqDispatch_busy hs hc
  | evDmaStep | evSerLoad | evSerShift | evSerRxArrive | evHardFault => exact absurd (by simp [Instr.op]) hi
  | _ => exact runHost_busy hs hc hop

/-- Settles O9: the refused, the halted and the busy machine. -/
theorem stoppedAndBusyMachines : Obligations.StoppedAndBusyMachines := by
  refine ⟨fun _ => step_refused, fun s ws b rest hb hr hf => ?_, fun _ _ _ => exec_busy⟩
  rw [step_eq_haltedStep hb hr hf]
  exact ⟨haltedStep_host, haltedStep_not_host⟩

/-! ## The fault trap -/

theorem exec_evHardFault (hs : s.Running) :
    exec .evHardFault s = .next (raise (.hardFault (Config.drawReport s.sched.draws)) (s.advance 1)) := by
  simp only [exec, execEvHardFault, runAgent_running hs]

/-- Settles O49: the report is the next draw, and `raise` says what becomes of it. -/
theorem hardFaultTrap : Obligations.HardFaultTrap :=
  fun s hs => ⟨Config.drawReport s.sched.draws, exec_evHardFault hs⟩

end Sys2Proof.Machine
end

section
/-! PROOF. The steps that no turn names (70_reset_and_hazards R441; 42_binding_and_routing R243, R244, R425; log 30): what each
agent's list of enabled steps holds, the step when no turn is left, and the dispatch that is made again after every return. -/

namespace Sys2Proof.Machine

variable {s : State} {c : ChanIx} {i : Instr} {p : Pid}

/-! ## The enabled steps -/

/-- The CPU agent goes on with its operation, or takes a dispatch that is enabled (R31, R240). -/
theorem mem_cpuSteps_iff :
    i ∈ cpuSteps s ↔ (∃ c, s.cur = some c ∧ i = c.op) ∨
      (∃ c, i = .irqDispatch (.dma c) ∧ dispatchEnabled (.dma c) s = true) ∨
      ∃ e, i = .irqDispatch (.ser e) ∧ dispatchEnabled (.ser e) s = true := by
  cases hc : s.cur with
  | none =>
    simp only [cpuSteps, hc, List.mem_map, List.mem_filter, List.mem_append, List.mem_finRange, true_and,
      reduceCtorEq, false_and, exists_false, false_or]
    constructor
    · rintro ⟨_, ⟨⟨c, rfl⟩ | ⟨e, rfl⟩, h⟩, rfl⟩
      · exact .inl ⟨c, rfl, h⟩
      · exact .inr ⟨e, rfl, h⟩
    · rintro (⟨c, rfl, h⟩ | ⟨e, rfl, h⟩)
      · exact ⟨_, ⟨.inl ⟨c, rfl⟩, h⟩, rfl⟩
      · exact ⟨_, ⟨.inr ⟨e, rfl⟩, h⟩, rfl⟩
  | some c => simp [cpuSteps, hc, dispatchEnabled]

/-- With no request of the environment's, only a serial engine asks for a byte (R202). -/
theorem dmaRequest_unrequested_iff :
    dmaRequest p (s.withExtReq false) = true ↔
      ∃ e, periphOf p = .engine e ∧ (s.eng e).clkOn = true ∧
        ((p.dir = .tx ∧ (s.eng e).txen = true ∧ (s.eng e).thrFull = false) ∨ (p.dir = .rx ∧ (s.eng e).rxrdy = true)) := by
  cases hp : periphOf p with
  | engine e => simp [dmaRequest_engine_iff hp]
  | external n => simp [dmaRequest_external hp]

theorem mem_dmaAgentSteps_iff :
    i ∈ dmaAgentSteps s ↔
      ∃ c p e, i = .evDmaStep c (Config.drawByte s.sched.draws) ∧ s.dmaGate = true ∧ (s.chan c).ten = true ∧
        (s.chan c).tcr ≠ 0 ∧ decodeSelector (s.chan c).psr = some p ∧ periphOf p = .engine e ∧ (s.eng e).clkOn = true ∧
        ((p.dir = .tx ∧ (s.eng e).txen = true ∧ (s.eng e).thrFull = false) ∨ (p.dir = .rx ∧ (s.eng e).rxrdy = true)) := by
  simp only [dmaAgentSteps, List.mem_map, List.mem_filter, List.mem_finRange, true_and, Option.isSome_iff_exists,
    dmaStepFor?_eq_some_iff, dmaRequest_unrequested_iff, withExtReq_dmaGate, withExtReq_chan]
  constructor
  · rintro ⟨c, ⟨p, hgate, hten, htcr, hsel, e, hreq⟩, rfl⟩
    exact ⟨c, p, e, rfl, hgate, hten, htcr, hsel, hreq⟩
  · rintro ⟨c, p, e, rfl, hgate, hten, htcr, hsel, hreq⟩
    exact ⟨c, ⟨p, hgate, hten, htcr, hsel, e, hreq⟩, rfl⟩

theorem mem_shifterAgentSteps_iff :
    i ∈ shifterAgentSteps s ↔
      (∃ e, i = .evSerLoad e ∧ (s.eng e).clkOn = true ∧ (s.eng e).thrFull = true ∧ (s.eng e).shift = none ∧
          (s.eng e).txen = true) ∨
        ∃ e, i = .evSerShift e (Config.drawByte s.sched.draws) ∧ (s.eng e).clkOn = true ∧
          (s.eng e).shift.isSome = true := by
  simp [shifterAgentSteps, loadReady_iff, and_comm, eq_comm (a := i)]

theorem dmaAgentSteps_eq_nil_iff : dmaAgentSteps s = [] ↔ ∀ c, dmaStepFor? c (s.withExtReq false) = none := by
  simp [dmaAgentSteps]

theorem shifterAgentSteps_eq_nil_iff :
    shifterAgentSteps s = [] ↔
      (∀ e, ((s.eng e).clkOn && loadReady (s.eng e)) = false) ∧ ∀ e, ((s.eng e).clkOn && (s.eng e).shift.isSome) = false := by
  simp [shifterAgentSteps]

/-- Where a dispatch is the only enabled step, no hardware agent has one. -/
theorem agentSteps_eq_nil {l : Line} (h : ∀ i ∈ freeSteps s, i = .irqDispatch l) :
    dmaAgentSteps s = [] ∧ shifterAgentSteps s = [] := by
  simp only [freeSteps, List.mem_append] at h
  constructor <;> refine List.eq_nil_iff_forall_not_mem.2 fun i hi => ?_
  · obtain ⟨_, _, _, rfl, _⟩ := mem_dmaAgentSteps_iff.1 hi
    exact Instr.noConfusion (h _ (.inl (.inr hi)))
  · obtain ⟨_, rfl, _⟩ | ⟨_, rfl, _⟩ := mem_shifterAgentSteps_iff.1 hi <;> exact Instr.noConfusion (h _ (.inr hi))

/-! ## The step with no turn left -/

theorem step_eq_freeStep (hb : s.sched.booted = true) (hr : s.Running) (hin : s.sched.input = []) :
    step s = freeStep s := by
  rw [step_eq_takeTurn hb hr, takeTurn, hin]

/-- There is no choice where only one step is enabled. -/
theorem freeStep_of_singleton (h : freeSteps s = [i]) : freeStep s = exec i s.unscheduled := by
  rw [freeStep, h, pickRound]

theorem freeStep_of_nil (h : freeSteps s = []) : freeStep s = .refused .quiescent := by
  rw [freeStep, h, pickRound]

/-- Of some enabled steps one is taken (R243). -/
theorem exists_freeStep_eq_exec (h : i ∈ freeSteps s) : ∃ j ∈ freeSteps s, freeStep s = exec j s.unscheduled :=
  (freeStep_cases s).resolve_left fun hnil => List.ne_nil_of_mem h hnil.1

/-! ## Dispatch without end -/

/-- Trap entry moves the CPU agent only: no hardware agent has an enabled step that it did not have before (R240). -/
theorem freeSteps_trapEntry (l : Line) (hdma : dmaAgentSteps s = []) (hshift : shifterAgentSteps s = []) :
    freeSteps (trapEntry l s.unscheduled) = [lineHandler l] := by
  have hdma' : dmaAgentSteps (trapEntry l s.unscheduled) = [] :=
    dmaAgentSteps_eq_nil_iff.2 ((dmaAgentSteps_eq_nil_iff (s := s)).1 hdma)
  have hshift' : shifterAgentSteps (trapEntry l s.unscheduled) = [] :=
    shifterAgentSteps_eq_nil_iff.2 ((shifterAgentSteps_eq_nil_iff (s := s)).1 hshift)
  rw [freeSteps, hdma', hshift']
  rfl

/-- The handler of a channel without client reads the selector and returns (R198). -/
theorem exec_dmaHandleIrq_no_client (hs : s.AtEntry (.dmaHandleIrq c)) (hgate : s.dmaGate = true)
    (hsel : decodeSelector (s.chan c).psr = some p) (hclient : (s.chan c).client = none) :
    exec (.dmaHandleIrq c) s = .next (finish s) :=
  exec_dmaHandleIrq_ret hs ((dmaHandleIrqSteps_mapped hgate hsel).trans (by rw [dmaCallback, hclient]))

/-- The dispatch is made and its handler returns, which two draws are used for and nothing else (R244, R425). -/
theorem step_step_of_only_dispatch (hb : s.sched.booted = true) (hr : s.Running) (hin : s.sched.input = [])
    (hidle : s.cur = none) (honly : ∀ i, i ∈ freeSteps s ↔ i = .irqDispatch (.dma c)) (hclient : (s.chan c).client = none)
    (hgate : s.dmaGate = true) (hsel : decodeSelector (s.chan c).psr = some p) :
    ∃ t, step s = .next t ∧ step t = .next (s.unscheduled.advance 1) := by
  obtain ⟨hdma, hshift⟩ := agentSteps_eq_nil fun i => (honly i).1
  have hmem : Instr.irqDispatch (.dma c) ∈ freeSteps s := (honly _).2 rfl
  obtain ⟨i, hi, hfree⟩ := exists_freeStep_eq_exec hmem
  have henabled : dispatchEnabled (.dma c) s = true := by
    rw [freeSteps, hdma, hshift, List.append_nil, List.append_nil, mem_cpuSteps_iff] at hmem
    simpa [hidle] using hmem
  refine ⟨trapEntry (.dma c) s.unscheduled, ?_, ?_⟩
  · rw [step_eq_freeStep hb hr hin, hfree, (honly i).1 hi]
    exact exec_irqDispatch_enabled (s := s.unscheduled) hr henabled
  · rw [step_eq_freeStep (s := trapEntry _ s.unscheduled) hb hr hin, freeStep_of_singleton (freeSteps_trapEntry _ hdma hshift)]
    refine (exec_dmaHandleIrq_no_client (s := (trapEntry (.dma c) s.unscheduled).unscheduled)
      ⟨hr.1, hr.2, rfl, rfl⟩ hgate hsel hclient).trans (congrArg _ ?_)
    exact finish_of_idle (s := s.unscheduled.advance 1) hidle

/-- Settles O46: the list of enabled steps holds exactly the steps of the claim, and is empty or has one that is taken; the
dispatch without end is `step_step_of_only_dispatch`. -/
theorem unscheduledSteps : Obligations.UnscheduledSteps := by
  intro s hb hr hin after enabled
  have henabled i : enabled i ↔ i ∈ freeSteps s := by
    rw [freeSteps, List.mem_append, List.mem_append, mem_cpuSteps_iff, mem_dmaAgentSteps_iff, mem_shifterAgentSteps_iff]
    simp only [dispatchEnabled_dma_iff, dispatchEnabled_ser_iff, or_assoc]
    rfl
  simp only [henabled]
  have hstep := step_eq_freeStep hb hr hin
  refine ⟨fun hnone => ?_, fun ⟨i, hi⟩ => ?_, fun c p hidle honly hclient hgate hsel => ?_⟩
  · rw [hstep, freeStep_of_nil (List.eq_nil_iff_forall_not_mem.2 hnone)]
  · rw [hstep]
    exact exists_freeStep_eq_exec hi
  · exact step_step_of_only_dispatch hb hr hin hidle honly hclient hgate hsel

end Sys2Proof.Machine
end

section
/-! PROOF. The start bit (10_state R45; 70_reset_and_hazards R423). Of the model's own writes to channel registers none clears
TEN: each is of another register than CR, or is the command that sets TEN. So every operation keeps a channel started but
REG_WRITE and REG_FIELD_SET, which write any word at any address; and no hardware step writes CR. -/

namespace Sys2Proof.Machine

/-- The channel's start bit is set (R45). -/
def Started (c : ChanIx) (s : State) : Prop := (s.chan c).ten = true

namespace Started

variable {c d : ChanIx} {s : State}

/-- Whatever leaves the channels alone leaves a channel started. -/
theorem of_ch_eq (hs : Started c s) {t : State} (h : t.ch = s.ch) : Started c t := by
  rwa [Started, State.chan, h]

/-- A channel is replaced by one that is started if it was. -/
theorem setChan (hs : Started c s) {x : Chan} (hx : (s.chan d).ten = true → x.ten = true) :
    Started c (s.setChan d x) := by
  rw [Started, setChan_chan]
  split
  · next h => exact hx (h ▸ hs)
  · exact hs

theorem switchChan (hs : Started c s) (d : ChanIx) (on : Bool) : Started c (switchChan d on s) :=
  hs.setChan (x := { s.chan d with enabled := on }) id

theorem giveBack (hs : Started c s) (r : Option Buf) : Started c (giveBack r s) := hs.of_ch_eq (by rw [giveBack_eq])

theorem setOwners (hs : Started c s) (w : Buf) (r : Option Buf) (o : Owner) : Started c (setOwners w r o s) :=
  hs.of_ch_eq (by rw [setOwners_eq])

end Started

/-! ## Accesses -/

/-- A word without the bit of TDIS clears no TEN, in whichever register it is written (R45). -/
theorem chanWrite_ten {q : ChanReg} {v : Word} (hv : q = .cr → v.getLsbD 1 = false) {x : Chan} (hx : x.ten = true) :
    (chanWrite q v x).ten = true := by
  cases q with
  | cr => simp only [chanWrite, hv rfl, hx, Bool.false_eq_true, if_false, ite_self]
  | mar | psr | tcr | mr | sr | ier | idr | imr | isr => exact hx

section
variable {c d : ChanIx} {s : State}

theorem regRead_started (hs : Started c s) (a : Word) : (regRead a s).Within (Started c) := by
  obtain ⟨r, _, _, h⟩ | ⟨r, _, _, h⟩ | ⟨_, h⟩ := regRead_cases a s <;> rw [h]
  · obtain ⟨_, _, _, _, _, hch, _⟩ := regReadEffect_frame r s
    exact hs.of_ch_eq hch
  · exact hs
  · exact hs

theorem chanRegWrite_started (hs : Started c s) {q : ChanReg} {v : Word} (hv : q = .cr → v.getLsbD 1 = false) :
    (regWrite (chanAddr d q) v s).Within (Started c) := by
  rw [regWrite_chanAddr]
  split
  · exact hs.setChan (chanWrite_ten hv)
  · exact hs

theorem serRegWrite_started (hs : Started c s) (e : SerIx) (q : SerReg) (v : Word) :
    (regWrite (serAddr e q) v s).Within (Started c) := by
  rw [regWrite_serAddr]
  split
  · obtain ⟨_, _, _, _, _, _, hchan⟩ := serWrite_frame e e q v s
    exact (congrArg Chan.ten (hchan c)).trans hs
  · exact hs

theorem byteRead_started (hs : Started c s) (who : Owner) (a : Word) : (byteRead who a s).Within (Started c) := by
  obtain ⟨_, h⟩ | ⟨_, h⟩ := byteRead_cases who a s <;> rw [h]
  · exact hs
  · exact hs

theorem byteWrite_started (hs : Started c s) (who : Owner) (a : Word) (x : Byte) :
    (byteWrite who a x s).Within (Started c) := by
  obtain ⟨_, h⟩ | ⟨_, h⟩ := byteWrite_cases who a x s <;> rw [h]
  · exact hs
  · exact hs

end

/-- A step that is one access and then `f` keeps a property that both keep. -/
theorem Micro.After.access {α : Type} {P : State → Prop} {x : Access α} {f : α → State → Micro} (hx : x.Within P)
    (hf : ∀ v u, P u → (f v u).After P) : (x.andThen f).After P := by
  cases x with
  | done v u => exact hf v u hx
  | stop u => exact hx

/-! ## Steps of CPU operations -/

/-- No step of the operation clears the start bit of a channel. -/
def Body.KeepsStart (b : Body) : Prop := ∀ c k t s, Started c s → (b k t s).After (Started c)

theorem regReadSteps_keepsStart (a : Word) : (regReadSteps a).KeepsStart
  | _, 0, _, _, hs => .access (regRead_started hs a) fun _ _ h => h
  | _, _ + 1, _, _, _ => trivial

theorem regFieldGetSteps_keepsStart (hi lo : Fin 32) (a : Word) : (regFieldGetSteps hi lo a).KeepsStart
  | _, 0, _, _, hs => .access (regRead_started hs a) fun _ _ h => h
  | _, _ + 1, _, _, _ => trivial

/-- A field of a serial register is set, which is no channel's. -/
theorem serFieldSetSteps_keepsStart (op : Op) (e : SerIx) (q : SerReg) (hi lo : Fin 32) (v : Word) :
    (fieldSetSteps op (serAddr e q) hi lo v).KeepsStart
  | _, 0, _, _, hs => .access (regRead_started hs _) fun _ _ h => h
  | _, 1, _, _, hs => .access (serRegWrite_started hs e q _) fun _ _ h => h
  | _, _ + 2, _, _, _ => trivial

theorem dmaEnableSteps_keepsStart (d : ChanIx) : (dmaEnableSteps d).KeepsStart
  | _, 0, t, s, hs => by
    rw [dmaEnableSteps_zero]
    exact hs.switchChan d true
  | _, _ + 1, _, _, _ => trivial

theorem dmaDisableSteps_keepsStart (d : ChanIx) : (dmaDisableSteps d).KeepsStart
  | _, 0, t, s, hs => by
    rw [dmaDisableSteps_zero]
    exact hs.switchChan d false
  | _, _ + 1, _, _, _ => trivial

/-- The four registers that are programmed are other ones than CR (R186). -/
theorem programSteps_keepsStart (d : ChanIx) (pid : Pid) (buf : Buf) (len : Word) {next : State → Micro}
    (hnext : ∀ c u, Started c u → (next u).After (Started c)) : (programSteps d pid buf len next).KeepsStart
  | c, 0, _, s, hs => by
    rw [programSteps]
    split
    · exact hs
    · split
      · exact hs
      · split
        · exact hs
        · exact .access (chanRegWrite_started (s := setOwner buf (.chan d) s) hs nofun) fun _ _ h => h
  | _, 1, _, _, hs => .access (chanRegWrite_started hs nofun) fun _ _ h => h
  | _, 2, _, _, hs => .access (chanRegWrite_started hs nofun) fun _ _ h => h
  | _, 3, _, _, hs => .access (chanRegWrite_started hs nofun) fun _ _ h => hnext _ _ (h.setChan id)
  | _, _ + 4, _, _, _ => trivial

/-- The one write of CR sets TEN, and TDIS is not in its word (R190). -/
theorem startStep_started {c : ChanIx} {s : State} (hs : Started c s) (op : Op) (d : ChanIx) :
    (startStep op d s).After (Started c) :=
  .access (chanRegWrite_started hs fun _ => by decide) fun _ _ h => h

theorem dmaStartSteps_keepsStart (d : ChanIx) : (dmaStartSteps d).KeepsStart
  | _, 0, _, _, hs => startStep_started hs _ d
  | _, _ + 1, _, _, _ => trivial

theorem doTransferSteps_keepsStart (op : Op) (d : ChanIx) (pid : Pid) (buf : Buf) (len : Word) :
    (doTransferSteps op d pid buf len).KeepsStart := fun c k t s hs => by
  unfold doTransferSteps
  split
  · exact startStep_started hs op d
  · exact programSteps_keepsStart d pid buf len (fun _ _ h => by exact h) c k t s hs

/-- An abort writes IDR and TCR, and leaves TEN (R193). -/
theorem abortSteps_keepsStart (d : ChanIx) {next : Option Buf → State → Micro}
    (hnext : ∀ c r u, Started c u → (next r u).After (Started c)) : (abortSteps d next).KeepsStart
  | _, 0, _, _, hs => .access (chanRegWrite_started hs nofun) fun _ _ h => h
  | _, 1, _, _, hs => .access (chanRegWrite_started hs nofun) fun _ u h =>
    hnext _ _ _ ((h.setChan (x := { u.chan d with slot := none }) id).giveBack _)
  | _, _ + 2, _, _, _ => trivial

theorem dmaXferCountSteps_keepsStart (d : ChanIx) : (dmaXferCountSteps d).KeepsStart
  | _, 0, _, _, hs => .access (regRead_started hs _) fun _ _ h => h
  | _, _ + 1, _, _, _ => trivial

theorem dmaSetClientSteps_keepsStart (d : ChanIx) (client : Option DmaClient) : (dmaSetClientSteps d client).KeepsStart
  | _, 0, _, s, hs =>
    match client with
    | some (.serEngine _) => hs
    | none => hs.setChan (x := { s.chan d with client := none }) id
    | some (.ext k) => hs.setChan (x := { s.chan d with client := some (.ext k) }) id
  | _, _ + 1, _, _, _ => trivial

theorem serConfigureUartSteps_keepsStart (e : SerIx) (p : UartParams) : (serConfigureUartSteps e p).KeepsStart
  | _, 0, _, s, hs => by
    rw [serConfigureUartSteps]
    split
    · exact hs
    · split
      · exact hs
      · exact .access (serRegWrite_started (s := setClock (.ser e) true s) hs e _ _) fun _ _ h => h
  | _, 1, _, _, hs => .access (serRegWrite_started hs e _ _) fun _ _ h => h
  | _, 2, _, _, hs => .access (serRegWrite_started hs e _ _) fun _ _ h => h
  | _, _ + 3, _, _, _ => trivial

theorem serSendByteSteps_keepsStart (e : SerIx) (b : Byte) : (serSendByteSteps e b).KeepsStart
  | _, 0, _, s, hs => by
    rw [serSendByteSteps]
    split
    · exact hs
    · refine .access (regRead_started hs _) fun v u h => ?_
      split
      · exact h
      · trivial
  | _, 1, _, _, hs => .access (serRegWrite_started hs e _ _) fun _ _ h => h
  | _, _ + 2, _, _, _ => trivial

/-- The checks of SER_SEND_BYTES end in a fault or a refusal, which leaves the channels as they are (R264). -/
theorem sendBytesCheck_ch {e : SerIx} {buf : Buf} {s u : State} (h : sendBytesCheck e buf s = .inl u) : u.ch = s.ch := by
  unfold sendBytesCheck at h
  split at h
  · cases h; rfl
  · split at h
    · cases h; rfl
    · split at h
      · cases h; rfl
      · split at h
        · cases h; rfl
        · cases h

theorem serSendBytesSteps_keepsStart (e : SerIx) (buf : Buf) (len : Word) : (serSendBytesSteps e buf len).KeepsStart
  | c, 0, t, s, hs => by
    rw [serSendBytesSteps]
    split
    · next h => exact hs.of_ch_eq (sendBytesCheck_ch h)
    · next d p _ => exact doTransferSteps_keepsStart _ d p buf len c 0 t s hs
  | c, k + 1, t, s, hs => by
    rw [serSendBytesSteps]
    split
    · next d p _ => exact doTransferSteps_keepsStart _ d p buf len c (k + 1) t s hs
    · exact hs

theorem serInitSpiSteps_keepsStart (e : SerIx) : (serInitSpiSteps e).KeepsStart
  | _, 0, _, s, hs => by
    rw [serInitSpiSteps]
    split
    · exact hs
    · exact .access (serRegWrite_started (s := (setClock (.ser e) true s).setEng e _) hs e _ _) fun _ _ h => h
  | _, 1, _, _, hs => .access (serRegWrite_started hs e _ _) fun _ _ h => h
  | _, 2, _, _, hs => .access (serRegWrite_started hs e _ _) fun _ _ h => h
  | _, _ + 3, _, _, _ => trivial

theorem serReadWriteBytesSteps_keepsStart (e : SerIx) (w : Buf) (r : Option Buf) (len : Word) :
    (serReadWriteBytesSteps e w r len).KeepsStart
  | _, 0, _, s, hs => by
    rw [serReadWriteBytesSteps]
    split_ifs
    · exact hs
    · exact hs
    · exact hs
    · exact hs
    · exact .access (serRegWrite_started (hs.setOwners w r _) e _ _) fun _ _ h => h
  | _, 1, _, _, hs => .access (serRegWrite_started hs e _ _) fun _ _ h => h
  | _, 2, _, _, hs => .access (serRegWrite_started hs e _ _) fun _ _ h => h
  | _, 3, _, _, hs => .access (byteRead_started hs _ _) fun _ _ h => h
  | _, 4, _, _, hs => .access (serRegWrite_started hs e _ _) fun _ _ h => h
  | _, _ + 5, _, _, _ => trivial

theorem serSetClientSteps_keepsStart (e : SerIx) (client : SerClient) : (serSetClientSteps e client).KeepsStart
  | _, 0, _, _, hs => hs
  | _, _ + 1, _, _, _ => trivial

theorem serAttachDmaSteps_keepsStart (e : SerIx) (p : Pid) (d : ChanIx) : (serAttachDmaSteps e p d).KeepsStart
  | c, 0, _, s, hs => by
    rw [serAttachDmaSteps]
    split
    · exact hs
    · have hattached : Started c (s.setEng e { s.eng e with dma := some (d, p) }) := hs
      exact hattached.setChan (x := { s.chan d with client := some (.serEngine e) }) id
  | _, _ + 1, _, _, _ => trivial

theorem crCommandSteps_keepsStart (op : Op) (e : SerIx) (v : Word) : (crCommandSteps op e v).KeepsStart
  | _, 0, _, _, hs => .access (serRegWrite_started hs e _ _) fun _ _ h => h
  | _, _ + 1, _, _, _ => trivial

theorem mrBitSteps_keepsStart (op : Op) (e : SerIx) (i : Nat) : (mrBitSteps op e i).KeepsStart
  | _, 0, _, _, hs => .access (regRead_started hs _) fun _ _ h => h
  | _, _ + 1, _, _, _ => trivial

theorem fixedSteps_keepsStart (op : Op) (v : RetVal) : (fixedSteps op v).KeepsStart
  | _, 0, _, _, hs => hs
  | _, _ + 1, _, _, _ => trivial

/-! ## The handlers -/

section
variable {c : ChanIx} {s : State}

theorem uartReceive_started (hs : Started c s) (e : SerIx) (x : Byte) : (uartReceive e x s).After (Started c) := by
  unfold uartReceive
  split
  · exact hs
  · exact hs
  · exact hs

theorem spiComplete_started (hs : Started c s) (e : SerIx) (x : SpiCtx) : (spiComplete e x s).After (Started c) := by
  have howners : Started c (setOwners x.w x.r .host s) := hs.setOwners _ _ _
  unfold spiComplete
  dsimp only
  split
  · exact howners
  · exact howners
  · exact howners

theorem spiAdvance_started (hs : Started c s) (e : SerIx) (x : SpiCtx) : (spiAdvance e x s).After (Started c) :=
  spiAdvance_sat hs fun _ => hs

theorem afterRhr_started (hs : Started c s) (e : SerIx) (v : Word) : (afterRhr e v s).After (Started c) := by
  unfold afterRhr
  split
  · exact uartReceive_started hs e _
  · exact hs
  · split
    · exact hs
    · next x _ =>
      split
      · exact hs
      · exact spiAdvance_started hs e x

theorem deliverWriteDone_started (hs : Started c s) (e : SerIx) (r : Option Buf) :
    (deliverWriteDone e r s).After (Started c) := by
  unfold deliverWriteDone
  split
  · exact hs
  · split
    · exact hs
    · exact hs
    · exact hs

theorem dmaCallback_started (hs : Started c s) (d : ChanIx) (pid : Pid) : (dmaCallback d pid s).After (Started c) := by
  unfold dmaCallback
  split
  · exact hs
  · exact hs
  · exact hs

end

theorem serHandleIrqSteps_keepsStart (e : SerIx) : (serHandleIrqSteps e).KeepsStart
  | _, 0, _, _, hs => .access (regRead_started hs _) fun v u h => by
    split
    · exact h
    · exact h
  | _, 1, _, _, hs => .access (regRead_started hs _) fun v _ h => afterRhr_started h e v
  | _, 2, _, _, hs => by
    rw [serHandleIrqSteps]
    split
    · exact hs
    · next x _ =>
      split
      · exact spiAdvance_started hs e x
      · exact .access (byteWrite_started hs _ _ _) fun _ _ h => spiAdvance_started h e x
  | _, 3, _, _, hs => .access (serRegWrite_started hs e _ _) fun _ _ h => h
  | c, 4, _, _, hs => .access (serRegWrite_started hs e _ _) fun _ u h => by
    split
    · exact h
    · next x _ => exact spiComplete_started (s := u.setEng e { u.eng e with ctx := none }) h e x
  | _, 5, _, _, hs => by
    rw [serHandleIrqSteps]
    split
    · exact hs
    · exact .access (byteRead_started hs _ _) fun _ _ h => h
  | _, 6, _, _, hs => .access (serRegWrite_started hs e _ _) fun _ _ h => h
  | _, _ + 7, _, _, _ => trivial

theorem serDmaDoneSteps_keepsStart (e : SerIx) : (serDmaDoneSteps e).KeepsStart := fun c k t s hs => by
  unfold serDmaDoneSteps
  split
  · exact abortSteps_keepsStart _ (fun _ r _ h => deliverWriteDone_started h e r) c k t s hs
  · exact hs

theorem dmaHandleIrqSteps_keepsStart (d : ChanIx) : (dmaHandleIrqSteps d).KeepsStart
  | _, 0, _, _, hs => .access (regRead_started hs _) fun _ _ h => by
    split
    · exact h
    · exact dmaCallback_started h d _
  | c, k + 1, t, s, hs => by
    rw [dmaHandleIrqSteps]
    split
    · next e _ => exact .shift (serDmaDoneSteps_keepsStart e c k t s hs)
    · exact hs

/-! ## Instructions -/

/-- Every operation but the two that write a word of the host's at an address of the host's. -/
theorem cpuBody_keepsStart {i : Instr} (hwrite : i.op ≠ .regWrite) (hset : i.op ≠ .regFieldSet) :
    (cpuBody i).KeepsStart := by
  cases i with
  | regWrite a v => exact absurd rfl hwrite
  | regFieldSet hi lo a v => exact absurd rfl hset
  | regRead a => exact regReadSteps_keepsStart a
  | regFieldGet hi lo a => exact regFieldGetSteps_keepsStart hi lo a
  | dmaEnable d => exact dmaEnableSteps_keepsStart d
  | dmaDisable d => exact dmaDisableSteps_keepsStart d
  | dmaProgram d pid buf len => exact programSteps_keepsStart d pid buf len fun _ _ h => by exact h
  | dmaStart d => exact dmaStartSteps_keepsStart d
  | dmaDoTransfer d pid buf len => exact doTransferSteps_keepsStart _ d pid buf len
  | dmaAbort d => exact abortSteps_keepsStart d (next := fun r => retWith .dmaAbort (.buf r)) fun _ _ _ h => h
  | dmaHandleIrq d => exact dmaHandleIrqSteps_keepsStart d
  | dmaXferCount d => exact dmaXferCountSteps_keepsStart d
  | dmaSetClient d client => exact dmaSetClientSteps_keepsStart d client
  | serConfigureUart e p => exact serConfigureUartSteps_keepsStart e p
  | serSendByte e b => exact serSendByteSteps_keepsStart e b
  | serSendBytes e buf len => exact serSendBytesSteps_keepsStart e buf len
  | serInitSpi e => exact serInitSpiSteps_keepsStart e
  | serReadWriteBytes e w r len => exact serReadWriteBytesSteps_keepsStart e w r len
  | serHandleIrq e => exact serHandleIrqSteps_keepsStart e
  | serDmaDone e _ => exact serDmaDoneSteps_keepsStart e
  | serSetClient e client => exact serSetClientSteps_keepsStart e client
  | serAttachDma e p d => exact serAttachDmaSteps_keepsStart e p d
  | serEnableTx e | serDisableTx e | serEnableRx e | serDisableRx e => exact crCommandSteps_keepsStart _ e _
  | spiSetClock e v | spiSetPhase e v => exact serFieldSetSteps_keepsStart _ e .mr _ _ _
  | spiGetClock e | spiGetPhase e => exact mrBitSteps_keepsStart _ e _
  | spiSetRate | spiGetRate | spiSetChipSelect | spiGetChipSelect => exact fixedSteps_keepsStart _ _
  | irqDispatch | evDmaStep | evSerLoad | evSerShift | evSerRxArrive | evHardFault => exact fun _ _ _ _ _ => trivial

section
variable {c : ChanIx} {s : State}

/-- The CPU agent's turn at an operation that clears no start bit. -/
theorem Body.KeepsStart.runCpu_started {b : Body} (hb : b.KeepsStart) (op : Instr) (hs : Started c s) :
    Started c (runCpu op b s) :=
  runCpu_sat (fun k t u => hb c k t u) (fun _ _ h => h) (fun _ h => h) (fun _ h => h) hs

/-- A byte that moves changes MAR and TCR of its channel (R201). -/
theorem dmaMove_started (hs : Started c s) (d : ChanIx) (p : Pid) (x0 : Byte) : Started c (dmaMove d p x0 s) := by
  cases howns : ownsAddr s.bufs (.chan d) (s.chan d).mar with
  | false =>
    rw [dmaMove_out_of_buffer howns]
    exact hs
  | true =>
    have hbyte : Started c (dmaMoveByte p (s.chan d).mar x0 s) := by rwa [Started, dmaMoveByte_chan]
    rw [dmaMove_of_owns howns]
    exact hbyte.setChan fun h => by rwa [dmaMoveByte_chan] at h

theorem shifterStep_started {f : State → State} (hs : Started c s) (hf : Started c (f s)) (e : SerIx) (ready : Bool) :
    Started c (shifterStep e ready f s) := by
  unfold shifterStep
  split_ifs
  · exact hf
  · exact hs
  · exact hs

theorem serShift_started (hs : Started c s) (e : SerIx) (m : Byte) : Started c (serShift e m s) := by
  cases hb : (s.eng e).shift with
  | none => rwa [serShift, hb]
  | some b =>
    rw [serShift_eq hb]
    split
    · exact hs
    · exact hs

/-- A host operation or a handler makes the CPU agent's turn; the hardware agents write no CR. -/
theorem exec_started {i : Instr} {s' : State} (hwrite : i.op ≠ .regWrite) (hset : i.op ≠ .regFieldSet) (hs : Started c s)
    (h : exec i s = .next s') : Started c s' := by
  have hturn : Started c (runCpu i (cpuBody i) s) := (cpuBody_keepsStart hwrite hset).runCpu_started i hs
  have hhandler (h : runHandler i (cpuBody i) s = .next s') : Started c s' := by
    obtain ⟨_, _, ⟨_, rfl⟩ | ⟨_, rfl⟩⟩ := runHandler_next h
    · exact hs
    · exact hturn
  have hagent {f : State → State} (h : runAgent f s = .next s') (hf : Started c (f s)) : Started c s' :=
    (runAgent_next h).2.2 ▸ hf
  by_cases hhost : i.op.hostMayIssue = true
  · rw [exec_eq_runHost hhost] at h
    obtain ⟨_, ⟨_, rfl⟩ | ⟨_, rfl⟩⟩ := runHost_next h
    · exact hs
    · exact hturn
  · cases i with
    | dmaHandleIrq | serHandleIrq | serDmaDone => exact hhandler h
    | irqDispatch l =>
      refine hagent h ?_
      split
      · exact hs
      · exact hs
    | evDmaStep d x0 =>
      simp only [exec, execEvDmaStep] at h
      refine hagent h ?_
      split
      · exact hs
      · next p _ =>
        split
        · exact hs
        · exact dmaMove_started hs d p x0
    | evSerLoad e => exact hagent h (shifterStep_started hs hs e _)
    | evSerShift e m => exact hagent h (shifterStep_started hs (serShift_started hs e m) e _)
    | evSerRxArrive e x => exact hagent h (shifterStep_started hs hs e _)
    | evHardFault =>
      simp only [exec, execEvHardFault] at h
      exact hagent h hs
    | _ => exact absurd rfl hhost

end

/-- Settles O59, for every channel at once. -/
theorem startBitPersists : Obligations.StartBitPersists := fun _ _ _ _ hwrite hset hs h => exec_started hwrite hset hs h

end Sys2Proof.Machine
end
